-- ==== Sys2Proof/Word.lean ====
section
/-! DEFINITION. The widths of 00_scope.md R12 and the small data types the storage cells hold. -/

namespace Sys2Proof

/-- A 32-bit command word, CSR word or response data word (R111, R119). -/
abbrev Word := BitVec 32

/-- A pulse duration in µs, `PULSE_W = 24` bits (R125, D5). -/
abbrev Pulse := BitVec 24

/-- A 4-bit nibble (R17). -/
abbrev Nibble := BitVec 4

/-- A queue cursor, a length or an index: `u8` (R34, R44, D42). -/
abbrev Octet := BitVec 8

/-- An event counter, `CNT_W = 16` bits (R53, D29). -/
abbrev Count := BitVec 16

/-- The DecodedSymbol values of R14. The fourth code of the two bits is never written, so it is no value. -/
inductive Symbol where
  | zero
  | one
  | resync
deriving DecidableEq, Repr, Inhabited

/-- The protocol variants of R2 and R15. -/
inductive Proto where
  | v3
  | v21
deriving DecidableEq, Repr

/-- One pair of a descriptor's field layout: the first and the last nibble index (R49). -/
structure FieldPair where
  start : Octet
  stop  : Octet
deriving DecidableEq, Repr, Inhabited

/-- One SensorRegistry entry (R49): device id, channel, message length in nibbles, number of meaningful field
pairs, and the field pairs `field[0..MAX_FIELDS-1]`. -/
structure Descriptor where
  id     : Word
  ch     : Octet
  len    : Octet
  nf     : BitVec 5
  fields : List FieldPair
deriving DecidableEq, Repr, Inhabited

end Sys2Proof
end

