-- ==== Sys2Proof/Syntax.lean ====
section
/-! DEFINITION. The 17 operations of the opcode map (30_encoding.md R112, R114), with their operand fields as R112 lays
them out, and the pseudo-operations of R122. -/

namespace Sys2Proof

/-- The operations. Every operand is an unsigned field taken directly from the word (R112). -/
inductive Instr where
  /-- `NOP` (R320). -/
  | nop
  /-- `PUSH_PULSE d` (R155): `d` a pulse duration in µs. -/
  | pushPulse (d : Pulse)
  /-- `DEC_STEP` (R190). -/
  | decStep
  /-- `PARSE_STEP` (R252). -/
  | parseStep
  /-- `POP_SYMBOL` (R193). -/
  | popSymbol
  /-- `FEED_BIT b` (R254). -/
  | feedBit (b : BitVec 1)
  /-- `RESET m` (R322): `m[0]` the decoder, `m[1]` the parser. -/
  | reset (m : BitVec 2)
  /-- `WR_CTRL c` (R326). -/
  | wrCtrl (c : BitVec 4)
  /-- `RD_CSR n` (R328). -/
  | rdCsr (n : Octet)
  /-- `RD_MSG i` (R330). -/
  | rdMsg (i : Octet)
  /-- `LOAD_ID_LO h` (R280). -/
  | loadIdLo (h : BitVec 16)
  /-- `LOAD_ID_HI h` (R281). -/
  | loadIdHi (h : BitVec 16)
  /-- `SET_FIELD k, s, e` (R282): field number, start nibble, end nibble. -/
  | setField (k : BitVec 4) (s e : Octet)
  /-- `REG_ADD f, l, c` (R284): field count, message length, channel. -/
  | regAdd (f : BitVec 5) (l c : Octet)
  /-- `RD_SLOT s, w` (R288): slot, word number. -/
  | rdSlot (s : BitVec 4) (w : BitVec 5)
  /-- `CLR_CNT` (R332). -/
  | clrCnt
  /-- `LOOKUP c` (R290): channel. -/
  | lookup (c : Octet)
deriving DecidableEq, Repr

/-- The three agents (R10). -/
inductive Agent where
  | edge
  | engine
  | host
deriving DecidableEq, Repr

/-- The pseudo-operations of R122. `HAS_NEXT` is the command it begins with, the test of data bit 2 is HOST's. -/
inductive Pseudo where
  | resetAll
  | ack
  | loadId (x : Word)
  | addSensor (x : Word) (c l : Octet) (pairs : List FieldPair)
  | enable (p : Proto)
  | hasNext
deriving DecidableEq, Repr

end Sys2Proof
end

