-- ==== Sys2Proof/Decode.lean ====
section
/-! DEFINITION. The decoder of 30_encoding.md R113 over the opcode map R114, total on every 32-bit word and rejecting
by name; then the encoder, written from R112 and R114. -/

namespace Sys2Proof

/-- Why a command-port word is `ILLEGAL` (R113, R115, R116). -/
inductive Reject where
  /-- Opcodes `0x11` to `0xFF` are reserved. -/
  | reservedOpcode
  /-- Opcode `0x01` on the command port. -/
  | pulsePortOnly
  /-- A reserved operand bit is 1. -/
  | reservedBit
deriving DecidableEq, Repr

/-- One row of the opcode map R114: a word selects the row iff `word &&& mask = pat`; `build` reads the fields of R112. -/
structure Row where
  mnemonic : String
  pat      : Word
  mask     : Word
  build    : Word → Instr

/-- The opcode map R114; row number and opcode are the same. -/
def opcodeTable : List Row :=
  [ ⟨"NOP",        0x00000000, 0xFFFFFFFF, fun _ => .nop⟩,
    ⟨"PUSH_PULSE", 0x01000000, 0xFF000000, fun w => .pushPulse (w.extractLsb' 0 24)⟩,
    ⟨"DEC_STEP",   0x02000000, 0xFFFFFFFF, fun _ => .decStep⟩,
    ⟨"PARSE_STEP", 0x03000000, 0xFFFFFFFF, fun _ => .parseStep⟩,
    ⟨"POP_SYMBOL", 0x04000000, 0xFFFFFFFF, fun _ => .popSymbol⟩,
    ⟨"FEED_BIT",   0x05000000, 0xFFFFFFFE, fun w => .feedBit (w.extractLsb' 0 1)⟩,
    ⟨"RESET",      0x06000000, 0xFFFFFFFC, fun w => .reset (w.extractLsb' 0 2)⟩,
    ⟨"WR_CTRL",    0x07000000, 0xFFFFFFF0, fun w => .wrCtrl (w.extractLsb' 0 4)⟩ ] ++
  [ ⟨"RD_CSR",     0x08000000, 0xFFFFFF00, fun w => .rdCsr (w.extractLsb' 0 8)⟩,
    ⟨"RD_MSG",     0x09000000, 0xFFFFFF00, fun w => .rdMsg (w.extractLsb' 0 8)⟩,
    ⟨"LOAD_ID_LO", 0x0A000000, 0xFFFF0000, fun w => .loadIdLo (w.extractLsb' 0 16)⟩,
    ⟨"LOAD_ID_HI", 0x0B000000, 0xFFFF0000, fun w => .loadIdHi (w.extractLsb' 0 16)⟩,
    ⟨"SET_FIELD",  0x0C000000, 0xFFF00000,
      fun w => .setField (w.extractLsb' 16 4) (w.extractLsb' 8 8) (w.extractLsb' 0 8)⟩,
    ⟨"REG_ADD",    0x0D000000, 0xFFE00000,
      fun w => .regAdd (w.extractLsb' 16 5) (w.extractLsb' 8 8) (w.extractLsb' 0 8)⟩,
    ⟨"RD_SLOT",    0x0E000000, 0xFFF0FFE0, fun w => .rdSlot (w.extractLsb' 16 4) (w.extractLsb' 0 5)⟩,
    ⟨"CLR_CNT",    0x0F000000, 0xFFFFFFFF, fun _ => .clrCnt⟩,
    ⟨"LOOKUP",     0x10000000, 0xFFFFFF00, fun w => .lookup (w.extractLsb' 0 8)⟩ ]

/-- `opcode = word[31:24]` (R111). -/
def opcodeOf (w : Word) : Nat := (w.extractLsb' 24 8).toNat

/-- The operation a word of the opcode map stands for, on whichever port carries it (R114). -/
def decodeWord (w : Word) : Except Reject Instr :=
  match opcodeTable[opcodeOf w]? with
  | none => .error .reservedOpcode
  | some r => if w &&& r.mask = r.pat then .ok (r.build w) else .error .reservedBit

/-- Decoding a command-port word (R113): opcode `0x01` is legal only on the pulse port. -/
def decodeCommand (w : Word) : Except Reject Instr :=
  if opcodeOf w = 0x01 then .error .pulsePortOnly else decodeWord w

/-- A pulse-port transfer of `d` is the operation `PUSH_PULSE d` (R125). -/
def decodePulse (d : Pulse) : Instr := .pushPulse d

/-- The instruction read from a row's `nbits` bits numbered as spec/opcode_table.json numbers them; every operation is
one 32-bit word (R111), and no word is longer. -/
def decodeTableWord (nbits w : Nat) : Option Instr :=
  if nbits ≤ 32 then
    match decodeWord (BitVec.ofNat 32 (w % 2 ^ nbits)) with
    | .ok i => some i
    | .error _ => none
  else none

/-- The 32-bit word of an operation: the opcode, then the operand layout of R112. -/
def encode : Instr → Word
  | .nop            => 0x00#8 ++ 0#24
  | .pushPulse d    => 0x01#8 ++ d
  | .decStep        => 0x02#8 ++ 0#24
  | .parseStep      => 0x03#8 ++ 0#24
  | .popSymbol      => 0x04#8 ++ 0#24
  | .feedBit b      => 0x05#8 ++ 0#23 ++ b
  | .reset m        => 0x06#8 ++ 0#22 ++ m
  | .wrCtrl c       => 0x07#8 ++ 0#20 ++ c
  | .rdCsr n        => 0x08#8 ++ 0#16 ++ n
  | .rdMsg i        => 0x09#8 ++ 0#16 ++ i
  | .loadIdLo h     => 0x0A#8 ++ 0#8 ++ h
  | .loadIdHi h     => 0x0B#8 ++ 0#8 ++ h
  | .setField k s e => 0x0C#8 ++ 0#4 ++ k ++ s ++ e
  | .regAdd f l c   => 0x0D#8 ++ 0#3 ++ f ++ l ++ c
  | .rdSlot s w     => 0x0E#8 ++ 0#4 ++ s ++ 0#11 ++ w
  | .clrCnt         => 0x0F#8 ++ 0#24
  | .lookup c       => 0x10#8 ++ 0#16 ++ c

/-- The opcode of an operation (R112's first column). -/
def Instr.opcode : Instr → Nat
  | .nop => 0x00
  | .pushPulse _ => 0x01
  | .decStep => 0x02
  | .parseStep => 0x03
  | .popSymbol => 0x04
  | .feedBit _ => 0x05
  | .reset _ => 0x06
  | .wrCtrl _ => 0x07
  | .rdCsr _ => 0x08
  | .rdMsg _ => 0x09
  | .loadIdLo _ => 0x0A
  | .loadIdHi _ => 0x0B
  | .setField _ _ _ => 0x0C
  | .regAdd _ _ _ => 0x0D
  | .rdSlot _ _ => 0x0E
  | .clrCnt => 0x0F
  | .lookup _ => 0x10

/-- The expansion of a pseudo-operation (R122). -/
def expand : Pseudo → List Instr
  | .resetAll => [.reset 3]
  | .ack => [.reset 2]
  | .loadId x => [.loadIdLo (x.extractLsb' 0 16), .loadIdHi (x.extractLsb' 16 16)]
  | .addSensor x c l pairs =>
      [.loadIdLo (x.extractLsb' 0 16), .loadIdHi (x.extractLsb' 16 16)] ++
      pairs.zipIdx.map (fun (p, k) => .setField (BitVec.ofNat 4 k) p.start p.stop) ++
      [.regAdd (BitVec.ofNat 5 pairs.length) l c]
  | .enable .v3 => [.wrCtrl 0x7]
  | .enable .v21 => [.wrCtrl 0xF]
  | .hasNext => [.rdCsr 0x01]

end Sys2Proof
end

