-- ==== Sys2Proof/Config.lean ====
section
/-! DEFINITION. What an instance fixes at construction (00_scope.md R8) and the values the spec leaves free. -/

namespace Sys2Proof

/-- The instance parameters of R8 that vary between instances. `PULSE_W`, `CNT_W` and `SYNC` are fixed (D5, D29, R17). -/
structure Params where
  tMin      : Nat
  tSplit    : Nat
  tMax      : Nat
  pqCap     : Nat
  bqCap     : Nat
  msgCap    : Nat
  regCap    : Nat
  maxFields : Nat
  initBit   : BitVec 1
  chIdxV3   : Nat
  chIdxV21  : Nat
deriving DecidableEq, Repr

/-- The defaults of R8's table. DESIGN CHOICE (log 4): the reset state is that of an instance with these values.
PRESUMED (log 5): the two channel positions, which the spec itself takes from general knowledge. -/
def Params.standard : Params where
  tMin := 50
  tSplit := 750
  tMax := 1400
  pqCap := 32
  bqCap := 32
  msgCap := 32
  regCap := 10
  maxFields := 8
  initBit := 0
  chIdxV3 := 4
  chIdxV21 := 4

/-- The sync nibble value (R8, R17). -/
def syncNibble : Nibble := 0xA

/-- What a `MSG` cell holds at power-on number `power`, before anything is written to it: any value (R47, R83). Log 6. -/
opaque Config.msgPowerOn : (power index : Nat) → Nibble

/-- What an element of `PQ.buf` holds at power-on: any value, never read by a reachable state (R34, R38). Log 6. -/
opaque Config.pqPowerOn : (power index : Nat) → Pulse

/-- What an element of `BQ.buf` holds at power-on: any symbol, never read by a reachable state (R35, R38). Log 6. -/
opaque Config.bqPowerOn : (power index : Nat) → Symbol

/-- What a registry slot holds at power-on: any descriptor, never read by a reachable state (R49). Log 6. -/
opaque Config.regPowerOn : (power index : Nat) → Descriptor

end Sys2Proof
end

