-- ==== Sys2Proof/Machine/State.lean ====
section
/-! DEFINITION. The whole state of the block (10_state.md R30) as plain data, its reset values (R57, 70 R400), and the
reasons a step can stop. -/

namespace Sys2Proof.Machine

/-- A storage array as the cells written since power-on, `(index, element)` with strictly rising indices. An index
not listed was never written (R83). -/
abbrev Cells (α : Type) := List (Nat × α)

/-- A circular buffer: contents, insertion cursor, removal cursor, live count (R34, R35). -/
structure Queue (α : Type) where
  buf : Cells α
  wr  : Octet
  rd  : Octet
  cnt : Octet
deriving DecidableEq, Repr

/-- `DEC` (R39, R40). -/
structure Decoder where
  cur   : BitVec 1
  hc    : BitVec 1
  first : Bool
deriving DecidableEq, Repr

/-- The parser states (R15, R41). -/
inductive ParState where
  | sync
  | ident
  | body
  | complete
deriving DecidableEq, Repr

/-- `PAR` (R41 to R46). `slot` is `PAR.MATCH`. -/
structure Parser where
  state  : ParState
  nib    : Nibble
  sub    : BitVec 2
  idx    : Octet
  bitpar : BitVec 1
  matchv : Bool
  slot   : BitVec 4
  mlen   : Octet
deriving DecidableEq, Repr

/-- The result latch `RES` (R48); `computed` is `RES.CALC`, `received` is `RES.RECV`. -/
structure Latch where
  done  : Bool
  cksOk : Bool
  computed : Octet
  received : Octet
  slot  : BitVec 4
  len   : Octet
deriving DecidableEq, Repr

/-- The eight event counters, CSR 0x10 to 0x17 (R53). -/
structure Counters where
  pqOvf   : Count
  bqOvf   : Count
  resync  : Count
  unknown : Count
  cksFail : Count
  cksOk   : Count
  bufOvf  : Count
  discard : Count
deriving DecidableEq, Repr

/-- The status codes of a response (R120). -/
inductive Status where
  | ok
  | empty
  | full
  | busy
  | illegal
  | badarg
deriving DecidableEq, Repr

/-- A response: status and data word (R119). -/
structure Response where
  status : Status
  data   : Word
deriving DecidableEq, Repr

/-- One turn of one agent (R89): EDGE delivers a pulse, HOST issues a command word, ENGINE takes its choice. -/
inductive Turn where
  | edge (d : Pulse)
  | host (w : Word)
  | engine
deriving DecidableEq, Repr

/-- The machine. `cfg` is the instance (R8, no step writes it); `ctrl` to `cnt` are the elements of R30; `rsp` is the
response last given (R119); `turns` and `power` are the model's own (log 1, log 6). -/
structure State where
  cfg      : Params
  ctrl     : BitVec 4
  pq       : Queue Pulse
  bq       : Queue Symbol
  dec      : Decoder
  par      : Parser
  msg      : Cells Nibble
  res      : Latch
  reg      : Cells Descriptor
  regCount : BitVec 5
  idStage  : Word
  fstage   : List FieldPair
  pqOvf    : Bool
  bqOvf    : Bool
  cnt      : Counters
  rsp      : Option Response
  turns    : List Turn
  power    : Nat
deriving DecidableEq, Repr

/-- Why the machine stops. No rule of the block faults (R380). -/
inductive Fault where
  /-- Raised by `step` on an instance whose parameters break R9: it "is not a valid instance of this hardware and the
  model refuses it". Safe: such hardware does not exist. -/
  | invalidInstance
deriving DecidableEq, Repr

/-- Why an instruction is given no meaning. -/
inductive Refusal where
  /-- Raised by an arm of `exec` that has no meaning yet; no arm raises it now. Safe. -/
  | notModelled (mnemonic : String)
deriving DecidableEq, Repr

/-- An empty queue with both cursors at 0 and nothing written (R57). -/
def Queue.initial {α : Type} : Queue α where
  buf := []
  wr := 0
  rd := 0
  cnt := 0

/-- The decoder's initial values (R39). -/
def Decoder.initial (initBit : BitVec 1) : Decoder where
  cur := initBit
  hc := 0
  first := true

/-- The parser's initial values (R41 to R46). -/
def Parser.initial : Parser where
  state := .sync
  nib := 0
  sub := 0
  idx := 0
  bitpar := 0
  matchv := false
  slot := 0
  mlen := 0

/-- The latch after power-on (R48). -/
def Latch.initial : Latch where
  done := false
  cksOk := false
  computed := 0
  received := 0
  slot := 0
  len := 0

/-- All counters 0 (R53). -/
def Counters.zero : Counters where
  pqOvf := 0
  bqOvf := 0
  resync := 0
  unknown := 0
  cksFail := 0
  cksOk := 0
  bufOvf := 0
  discard := 0

/-- Power-on reset of an instance (R400): every element at the value of R57. `power` numbers the power-on (log 6). -/
def State.powerOn (cfg : Params) (power : Nat) : State where
  cfg := cfg
  ctrl := 0
  pq := Queue.initial
  bq := Queue.initial
  dec := Decoder.initial cfg.initBit
  par := Parser.initial
  msg := []
  res := Latch.initial
  reg := []
  regCount := 0
  idStage := 0
  fstage := List.replicate cfg.maxFields ⟨0, 0⟩
  pqOvf := false
  bqOvf := false
  cnt := Counters.zero
  rsp := none
  turns := []
  power := power

/-- The machine right after reset: R57's values for an instance with R8's defaults (DESIGN CHOICE, log 4). -/
def State.reset : State := State.powerOn Params.standard 0

end Sys2Proof.Machine
end

