-- ==== Sys2Proof/Machine/Ops.lean ====
section
/-! DEFINITION. The shared operations: derived parameters (00 R8, R9), storage cells (20 R82, R83), the queue primitives
(40 R152, R153), the fields of `CTRL` (10 R33), and the response (30 R119). The block takes no exception and returns
from none (60 R366, R367); the one shared operation in that place is the refusal `raise` of R13. -/

namespace Sys2Proof

/-- `CH_IDX(p)` (R8). -/
def Params.chIdx (c : Params) : Proto → Nat
  | .v3 => c.chIdxV3
  | .v21 => c.chIdxV21

/-- `ID_START(p) = CH_IDX(p) - 4` (R8). -/
def Params.idStart (c : Params) (p : Proto) : Nat := c.chIdx p - 4

/-- `ID_NIB(p) = CH_IDX(p) + 1` (R8). -/
def Params.idNib (c : Params) (p : Proto) : Nat := c.chIdx p + 1

/-- `MIN_LEN(p) = ID_NIB(p) + 2` (R8). -/
def Params.minLen (c : Params) (p : Proto) : Nat := c.idNib p + 2

/-- `MIN_LEN_ALL` (R8). -/
def Params.minLenAll (c : Params) : Nat := max (c.minLen .v3) (c.minLen .v21)

/-- The constraints an instance satisfies (R9). `INIT_BIT ∈ {0,1}` is in its type. -/
abbrev Params.valid (c : Params) : Prop :=
  (1 ≤ c.pqCap ∧ c.pqCap ≤ 255) ∧ (1 ≤ c.bqCap ∧ c.bqCap ≤ 255) ∧
  (4 ≤ c.chIdxV3 ∧ 4 ≤ c.chIdxV21) ∧ (c.minLenAll ≤ c.msgCap ∧ c.msgCap ≤ 255) ∧
  (1 ≤ c.regCap ∧ c.regCap ≤ 16) ∧ c.maxFields ≤ 16 ∧
  (0 < c.tMin ∧ c.tMin < c.tSplit ∧ c.tSplit < c.tMax ∧ c.tMax ≤ 2 ^ 24 - 1)

namespace Machine

/-- Construction of an instance (R9): parameters that break a constraint are refused, others power on (R400). -/
def construct (cfg : Params) (power : Nat) : Host.Outcome State Fault Refusal :=
  if cfg.valid then .next (State.powerOn cfg power) else .fault .invalidInstance

/-- The element written at an index, if one was. -/
def Cells.find {α : Type} : Cells α → Nat → Option α
  | [], _ => none
  | (j, v) :: rest, i => if i = j then some v else Cells.find rest i

/-- A read of a cell; one never written holds its power-on value (R83). -/
def Cells.read {α : Type} (unwritten : Nat → α) (m : Cells α) (i : Nat) : α :=
  (Cells.find m i).getD (unwritten i)

/-- A write of a cell, keeping the indices strictly rising. -/
def Cells.write {α : Type} : Cells α → Nat → α → Cells α
  | [], i, v => [(i, v)]
  | (j, w) :: rest, i, v =>
      if i < j then (i, v) :: (j, w) :: rest
      else if i = j then (i, v) :: rest
      else (j, w) :: Cells.write rest i v

/-- The canonical form of an array of `cap` cells: strictly rising indices, all below `cap`. -/
abbrev Cells.wf {α : Type} (cap : Nat) (m : Cells α) : Prop :=
  m.Pairwise (fun a b => a.1 < b.1) ∧ ∀ p ∈ m, p.1 < cap

/-- Every storage array of the block is in canonical form (R80, R82). -/
abbrev Memory.wf (s : State) : Prop :=
  Cells.wf s.cfg.pqCap s.pq.buf ∧ Cells.wf s.cfg.bqCap s.bq.buf ∧
  Cells.wf s.cfg.msgCap s.msg ∧ Cells.wf s.cfg.regCap s.reg

/-- A cursor advanced modulo the capacity (R152, R153); the sum is a `u8` sum (R12). -/
def Queue.advance (cap : Nat) (cursor : Octet) : Octet :=
  BitVec.ofNat 8 ((cursor + 1).toNat % cap)

/-- `Q.cnt = CAP` (R36, R154). -/
def Queue.isFull {α : Type} (cap : Nat) (q : Queue α) : Bool := q.cnt.toNat == cap

/-- `Q.cnt = 0` (R36, R154). -/
def Queue.isEmpty {α : Type} (q : Queue α) : Bool := q.cnt == 0

/-- `QInsert` (R152); `none` is Overflow. -/
def Queue.insert {α : Type} (cap : Nat) (q : Queue α) (v : α) : Option (Queue α) :=
  if q.isFull cap then none
  else some { buf := Cells.write q.buf q.wr.toNat v, wr := Queue.advance cap q.wr, rd := q.rd, cnt := q.cnt + 1 }

/-- `QRemove` (R153): the oldest element and the queue without it; `none` is Underflow. -/
def Queue.remove {α : Type} (cap : Nat) (unwritten : Nat → α) (q : Queue α) : Option (α × Queue α) :=
  if q.isEmpty then none
  else some (Cells.read unwritten q.buf q.rd.toNat,
             { buf := q.buf, wr := q.wr, rd := Queue.advance cap q.rd, cnt := q.cnt - 1 })

/-- The live elements, oldest first (R36). -/
def Queue.live {α : Type} (cap : Nat) (unwritten : Nat → α) (q : Queue α) : List α :=
  (List.range q.cnt.toNat).map (fun k => Cells.read unwritten q.buf ((q.rd.toNat + k) % cap))

/-- `CTRL.EDGE_EN` (R33). -/
def State.edgeEn (s : State) : Bool := s.ctrl.getLsbD 0

/-- `CTRL.DEC_EN` (R33). -/
def State.decEn (s : State) : Bool := s.ctrl.getLsbD 1

/-- `CTRL.PAR_EN` (R33). -/
def State.parEn (s : State) : Bool := s.ctrl.getLsbD 2

/-- The variant a value of `CTRL` selects: bit 3, `V3 = 0`, `V21 = 1` (R15, R33). -/
def protoOf (ctrl : BitVec 4) : Proto := if ctrl.getLsbD 3 then .v21 else .v3

/-- `CTRL.PROTO` (R33). -/
def State.proto (s : State) : Proto := protoOf s.ctrl

/-- A read of `MSG[i]` (R47, R83). -/
def State.msgAt (s : State) (i : Nat) : Nibble := Cells.read (Config.msgPowerOn s.power) s.msg i

/-- A read of `REG[k]` (R49). -/
def State.regAt (s : State) (k : Nat) : Descriptor := Cells.read (Config.regPowerOn s.power) s.reg k

/-- A read of `FSTAGE[k]` (R51). DESIGN CHOICE (log 12): past the end, which no run reaches, it is (0, 0). -/
def State.fstageAt (s : State) (k : Nat) : FieldPair := s.fstage.getD k ⟨0, 0⟩

/-- A read of a descriptor's `field[k]` (R49). DESIGN CHOICE (log 12): past the end, which no run reaches, it is
(0, 0). -/
def fieldAt (d : Descriptor) (k : Nat) : FieldPair := d.fields.getD k ⟨0, 0⟩

/-- `QInsert(PQ, d)` on the state; `none` is Overflow. -/
def State.pushPq (s : State) (d : Pulse) : Option State :=
  (s.pq.insert s.cfg.pqCap d).map (fun q => { s with pq := q })

/-- `QRemove(PQ)` on the state; `none` is Underflow. -/
def State.popPq (s : State) : Option (Pulse × State) :=
  (s.pq.remove s.cfg.pqCap (Config.pqPowerOn s.power)).map (fun r => (r.1, { s with pq := r.2 }))

/-- `QInsert(BQ, y)` on the state; `none` is Overflow. -/
def State.pushBq (s : State) (y : Symbol) : Option State :=
  (s.bq.insert s.cfg.bqCap y).map (fun q => { s with bq := q })

/-- `QRemove(BQ)` on the state; `none` is Underflow. -/
def State.popBq (s : State) : Option (Symbol × State) :=
  (s.bq.remove s.cfg.bqCap (Config.bqPowerOn s.power)).map (fun r => (r.1, { s with bq := r.2 }))

/-- The live pulses, oldest first (R36). -/
def State.pulses (s : State) : List Pulse := s.pq.live s.cfg.pqCap (Config.pqPowerOn s.power)

/-- The live symbols, oldest first (R36). -/
def State.symbols (s : State) : List Symbol := s.bq.live s.cfg.bqCap (Config.bqPowerOn s.power)

/-- `respond(status, data)` (R13, R119). -/
def State.respond (s : State) (st : Status) (data : Word) : State := { s with rsp := some ⟨st, data⟩ }

/-- A command performed: the response `OK` with its data word. -/
def done (s : State) (data : Word) : Host.Outcome State Fault Refusal := .next (s.respond .ok data)

/-- `raise E(0)`: the response `E` with data 0 and no other state change (R13, R120, R363). -/
def raise (s : State) (st : Status) : Host.Outcome State Fault Refusal := .next (s.respond st 0)

/-- `DecReset()` (R194). -/
def State.decReset (s : State) : State := { s with dec := Decoder.initial s.cfg.initBit }

/-- `ParserRestart()` (R222): everything of `PAR` but `BITPAR`. -/
def State.parserRestart (s : State) : State :=
  { s with par := { Parser.initial with bitpar := s.par.bitpar } }

/-- `ParserReset()` (R223): the restart, and `BITPAR` cleared. -/
def State.parserReset (s : State) : State :=
  let r := s.parserRestart
  { r with par := { r.par with bitpar := 0 } }

end Machine

end Sys2Proof
end

