-- ==== Sys2Proof/Machine/Flags.lean ====
section
/-! DEFINITION. The sticky overflow flags and the saturating event counters (10 R52, R53), the only flags the block
has (10 R54). -/

namespace Sys2Proof.Machine

/-- `count(C)`: plus one, saturating at `0xFFFF` (R13, R53, R365). -/
def bump (c : Count) : Count := if c = 0xFFFF then c else c + 1

/-- A PulseQueue overflow: `PQ_OVF <- 1; count(CNT_PQ_OVF)` (R155, R156). -/
def State.recordPqOvf (s : State) : State :=
  { s with pqOvf := true, cnt := { s.cnt with pqOvf := bump s.cnt.pqOvf } }

/-- A BitQueue overflow: `BQ_OVF <- 1; count(CNT_BQ_OVF)` (R186). -/
def State.recordBqOvf (s : State) : State :=
  { s with bqOvf := true, cnt := { s.cnt with bqOvf := bump s.cnt.bqOvf } }

/-- `count(CNT_RESYNC)` (R182). -/
def State.countResync (s : State) : State := { s with cnt := { s.cnt with resync := bump s.cnt.resync } }

/-- `count(CNT_UNKNOWN)` (R240). -/
def State.countUnknown (s : State) : State := { s with cnt := { s.cnt with unknown := bump s.cnt.unknown } }

/-- `count(CNT_CKS_FAIL)` (R250). -/
def State.countCksFail (s : State) : State := { s with cnt := { s.cnt with cksFail := bump s.cnt.cksFail } }

/-- `count(CNT_CKS_OK)` (R250). -/
def State.countCksOk (s : State) : State := { s with cnt := { s.cnt with cksOk := bump s.cnt.cksOk } }

/-- `count(CNT_BUFOVF)` (R244). -/
def State.countBufOvf (s : State) : State := { s with cnt := { s.cnt with bufOvf := bump s.cnt.bufOvf } }

/-- `count(CNT_DISCARD)` (R221). -/
def State.countDiscard (s : State) : State := { s with cnt := { s.cnt with discard := bump s.cnt.discard } }

/-- All counters and both sticky flags to 0 (R332). -/
def State.clearEvents (s : State) : State :=
  { s with cnt := Counters.zero, pqOvf := false, bqOvf := false }

end Sys2Proof.Machine
end

