-- ==== Sys2Proof/Machine/Operands.lean ====
section
/-! DEFINITION. What the operations read and answer with: the codes of R14, R15 and R191, the range checks behind
`BADARG` (60 R362), the CSR view (10 R55), the registry words (43 R288) and the halves of `ID_STAGE`. In every layout
the most significant field stands first (00 R11). -/

namespace Sys2Proof.Machine

/-- Symbol codes (R14). -/
def symbolCode : Symbol → BitVec 2
  | .zero => 0b00
  | .one => 0b01
  | .resync => 0b10

/-- The symbol of a bit value (R184, R254). -/
def symbolOfBit (b : BitVec 1) : Symbol := if b = 1 then .one else .zero

/-- Parser state codes (R15). -/
def parStateCode : ParState → BitVec 2
  | .sync => 0
  | .ident => 1
  | .body => 2
  | .complete => 3

/-- Status codes (R120). -/
def statusCode : Status → BitVec 4
  | .ok => 0
  | .empty => 1
  | .full => 2
  | .busy => 3
  | .illegal => 4
  | .badarg => 5

/-- `SET_FIELD`'s field number is in range (R282). -/
def fieldInRange (s : State) (k : BitVec 4) : Bool := decide (k.toNat < s.cfg.maxFields)

/-- `REG_ADD`'s field count and length are in range (R284). -/
def descriptorInRange (s : State) (f : BitVec 5) (l : Octet) : Bool :=
  decide (f.toNat ≤ s.cfg.maxFields ∧ s.cfg.minLenAll ≤ l.toNat)

/-- `RD_MSG`'s index is in range (R82, R330). -/
def msgInRange (s : State) (i : Octet) : Bool := decide (i.toNat < s.cfg.msgCap)

/-- `RD_SLOT`'s slot is valid and its word number in range (R82, R288). -/
def slotInRange (s : State) (k : BitVec 4) (w : BitVec 5) : Bool :=
  decide (k.toNat < s.regCount.toNat ∧ w.toNat < s.cfg.maxFields + 2)

/-- `STATUS`, CSR 0x01 (R55). -/
def statusWord (s : State) : Word :=
  0#22 ++ parStateCode s.par.state ++ BitVec.ofBool s.res.cksOk ++ BitVec.ofBool s.res.done ++
  BitVec.ofBool s.bqOvf ++ BitVec.ofBool s.pqOvf ++
  BitVec.ofBool (s.bq.isFull s.cfg.bqCap) ++ BitVec.ofBool s.bq.isEmpty ++
  BitVec.ofBool (s.pq.isFull s.cfg.pqCap) ++ BitVec.ofBool s.pq.isEmpty

/-- `DEC_STATE`, CSR 0x04 (R55). -/
def decStateWord (s : State) : Word := 0#29 ++ BitVec.ofBool s.dec.first ++ s.dec.hc ++ s.dec.cur

/-- `PAR_STATE`, CSR 0x05 (R55). -/
def parStateWord (s : State) : Word :=
  s.par.mlen ++ 0#2 ++ s.par.slot ++ BitVec.ofBool s.par.matchv ++ s.par.bitpar ++ s.par.idx ++ s.par.sub ++
  s.par.nib ++ parStateCode s.par.state

/-- `RESULT`, CSR 0x06 (R55). -/
def resultWord (s : State) : Word := s.res.len ++ 0#4 ++ s.res.slot ++ s.res.received ++ s.res.computed

/-- `PARAMS1`, CSR 0x1E (R55). -/
def params1Word (c : Params) : Word :=
  0#7 ++ c.initBit ++ BitVec.ofNat 8 c.chIdxV21 ++ BitVec.ofNat 8 c.chIdxV3 ++ BitVec.ofNat 8 c.maxFields

/-- `PARAMS0`, CSR 0x1F (R55). -/
def params0Word (c : Params) : Word :=
  BitVec.ofNat 8 c.regCap ++ BitVec.ofNat 8 c.msgCap ++ BitVec.ofNat 8 c.bqCap ++ BitVec.ofNat 8 c.pqCap

/-- The CSR view (R55); `none` is a reserved number (R82, D41). -/
def csrView (s : State) (n : Octet) : Option Word :=
  match n.toNat with
  | 0x00 => some (0#28 ++ s.ctrl)
  | 0x01 => some (statusWord s)
  | 0x02 => some (0#24 ++ s.pq.cnt)
  | 0x03 => some (0#24 ++ s.bq.cnt)
  | 0x04 => some (decStateWord s)
  | 0x05 => some (parStateWord s)
  | 0x06 => some (resultWord s)
  | 0x07 => some s.idStage
  | 0x08 => some (0#27 ++ s.regCount)
  | 0x09 => some (0#16 ++ s.pq.rd ++ s.pq.wr)
  | 0x0A => some (0#16 ++ s.bq.rd ++ s.bq.wr)
  | 0x10 => some (0#16 ++ s.cnt.pqOvf)
  | 0x11 => some (0#16 ++ s.cnt.bqOvf)
  | 0x12 => some (0#16 ++ s.cnt.resync)
  | 0x13 => some (0#16 ++ s.cnt.unknown)
  | 0x14 => some (0#16 ++ s.cnt.cksFail)
  | 0x15 => some (0#16 ++ s.cnt.cksOk)
  | 0x16 => some (0#16 ++ s.cnt.bufOvf)
  | 0x17 => some (0#16 ++ s.cnt.discard)
  | 0x1B => some (0#8 ++ BitVec.ofNat 24 s.cfg.tMax)
  | 0x1C => some (0#8 ++ BitVec.ofNat 24 s.cfg.tSplit)
  | 0x1D => some (0#8 ++ BitVec.ofNat 24 s.cfg.tMin)
  | 0x1E => some (params1Word s.cfg)
  | 0x1F => some (params0Word s.cfg)
  | _ => none

/-- Word `w` of a descriptor: the id, then `{nf, len, ch}`, then the field pairs (R81, R288). -/
def descriptorWord (d : Descriptor) (w : BitVec 5) : Word :=
  match w.toNat with
  | 0 => d.id
  | 1 => 0#11 ++ d.nf ++ d.len ++ d.ch
  | k + 2 => 0#16 ++ (fieldAt d k).start ++ (fieldAt d k).stop

/-- `LOOKUP`'s data word (R290). -/
def lookupWord : Option Nat → Word
  | none => 0
  | some k => 0#23 ++ 1#1 ++ 0#4 ++ BitVec.ofNat 4 k

/-- `ID_STAGE[15:0] <- h` (R280). -/
def withLowHalf (x : Word) (h : BitVec 16) : Word := x.extractLsb' 16 16 ++ h

/-- `ID_STAGE[31:16] <- h` (R281). -/
def withHighHalf (x : Word) (h : BitVec 16) : Word := h ++ x.extractLsb' 0 16

end Sys2Proof.Machine
end

