-- ==== Sys2Proof/Machine/Control.lean ====
section
/-! DEFINITION. The operations that control and observe the block as a whole (44_control.md). -/

namespace Sys2Proof.Machine

/-- `NOP` (R320). -/
def execNop (s : State) : Host.Outcome State Fault Refusal := done s 0

/-- `RESET m`, its parser half: `ParserReset()` and the two latch flags (R223, R322). -/
def State.resetParser (s : State) : State :=
  let t := s.parserReset
  { t with res := { t.res with done := false, cksOk := false } }

/-- `RESET m` (R322): never `BUSY`; the queues, the registry, `CTRL`, the flags and the counters stay (R323). -/
def execReset (m : BitVec 2) (s : State) : Host.Outcome State Fault Refusal :=
  let t := if m.getLsbD 0 then s.decReset else s
  let u := if m.getLsbD 1 then t.resetParser else t
  done u 0

/-- `WR_CTRL c` (R326): a change of `PROTO` resets the parser. -/
def execWrCtrl (c : BitVec 4) (s : State) : Host.Outcome State Fault Refusal :=
  let t := { s with ctrl := c }
  done (if protoOf c = s.proto then t else t.parserReset) 0

/-- `RD_CSR n` (R328). -/
def execRdCsr (n : Octet) (s : State) : Host.Outcome State Fault Refusal :=
  match csrView s n with
  | none => raise s .badarg
  | some w => done s w

/-- `RD_MSG i` (R330): a cell never written since power-on reads as any nibble (R83, log 6). -/
def execRdMsg (i : Octet) (s : State) : Host.Outcome State Fault Refusal :=
  if msgInRange s i then done s ((s.msgAt i.toNat).setWidth 32) else raise s .badarg

/-- `CLR_CNT` (R332). -/
def execClrCnt (s : State) : Host.Outcome State Fault Refusal := done s.clearEvents 0

end Sys2Proof.Machine
end

