-- ==== Sys2Proof/Machine/Decoder.lean ====
section
/-! DEFINITION. The pulse classifier, the bit-recovery state machine, `DEC_STEP` and `POP_SYMBOL` (41_decoder.md). -/

namespace Sys2Proof.Machine

/-- The class of a pulse (R181). -/
inductive PulseClass where
  | short
  | long
  | out
deriving DecidableEq, Repr

/-- `Classify(d)` (R181). -/
def classify (c : Params) (d : Pulse) : PulseClass :=
  if d.toNat < c.tMin ∨ c.tMax ≤ d.toNat then .out
  else if d.toNat < c.tSplit then .short
  else .long

/-- `emit(s)` (R186): the state, and whether the symbol was lost to a full `BQ`. -/
def emit (y : Symbol) (s : State) : State × Bool :=
  match s.pushBq y with
  | some t => (t, false)
  | none => (s.recordBqOvf, true)

/-- What `Decode` reports (R185): the class, whether the long action was taken, the symbol produced and whether it was
lost. -/
structure DecodeResult where
  cls  : PulseClass
  long : Bool
  sym  : Option Symbol
  lost : Bool
deriving DecidableEq, Repr

/-- The long action of R183. Advancing the half-clock counter by 2 leaves its residue unchanged (R40). -/
def Decoder.longAction (d : Decoder) : Decoder := { cur := ~~~d.cur, hc := d.hc + 2, first := false }

/-- The short action of R183. -/
def Decoder.shortAction (d : Decoder) : Decoder := { d with hc := d.hc + 1 }

/-- The decision table of R183: the long action for every `LONG`, and for `SHORT` while `FIRST = 1`. -/
def takesLong (c : PulseClass) (first : Bool) : Bool := c == .long || first

/-- `Decode(d)` (R185). -/
def decodeStep (d : Pulse) (s : State) : State × DecodeResult :=
  let c := classify s.cfg d
  if c = .out then
    let (t, lost) := emit .resync s.decReset.countResync
    (t, ⟨c, false, some .resync, lost⟩)
  else
    let lb := takesLong c s.dec.first
    let dec := if lb then s.dec.longAction else s.dec.shortAction
    let t := { s with dec := dec }
    if dec.hc = 0 then
      let y := symbolOfBit dec.cur
      let (u, lost) := emit y t
      (u, ⟨c, lb, some y, lost⟩)
    else (t, ⟨c, lb, none, false⟩)

/-- Class codes of the result word (R191). -/
def classCode : PulseClass → BitVec 2
  | .short => 0
  | .long => 1
  | .out => 2

/-- `DecResult` (R191). -/
def decResult (d : Pulse) (r : DecodeResult) : Word :=
  d ++ 0#1 ++ BitVec.ofBool r.long ++ classCode r.cls ++ BitVec.ofBool r.lost ++
  ((r.sym.map symbolCode).getD 0) ++ BitVec.ofBool r.sym.isSome

/-- `DEC_STEP` without the ownership check and the response, as HOST and ENGINE both perform it (R118, R190); `none` is
an empty `PQ`. -/
def runDecStep (s : State) : Option (State × Word) :=
  match s.popPq with
  | none => none
  | some (d, t) =>
    let (u, r) := decodeStep d t
    some (u, decResult d r)

/-- `DEC_STEP` issued by HOST (R190): `BUSY` while ENGINE decodes, `EMPTY` on an empty `PQ`. -/
def execDecStep (s : State) : Host.Outcome State Fault Refusal :=
  if s.decEn then raise s .busy
  else match runDecStep s with
    | none => raise s .empty
    | some (t, w) => done t w

/-- `POP_SYMBOL` (R193). -/
def execPopSymbol (s : State) : Host.Outcome State Fault Refusal :=
  if s.parEn then raise s .busy
  else match s.popBq with
    | none => raise s .empty
    | some (y, t) => done t ((symbolCode y).setWidth 32)

end Sys2Proof.Machine
end

