-- ==== Sys2Proof/Machine/Registry.lean ====
section
/-! DEFINITION. The SensorRegistry and its operations (43_registry.md). -/

namespace Sys2Proof.Machine

/-- Slot `k` holds the key `(id, ch)` (R287). -/
def slotMatches (s : State) (id : Word) (ch : Octet) (k : Nat) : Bool :=
  (s.regAt k).id == id && (s.regAt k).ch == ch

/-- `RegLookup(id, ch)` (R287): the first valid slot, in ascending order, that matches on both fields. -/
def regLookup (s : State) (id : Word) (ch : Octet) : Option Nat :=
  (List.range s.regCount.toNat).find? (slotMatches s id ch)

/-- `LOAD_ID_LO h` (R280). -/
def execLoadIdLo (h : BitVec 16) (s : State) : Host.Outcome State Fault Refusal :=
  let x := withLowHalf s.idStage h
  done { s with idStage := x } x

/-- `LOAD_ID_HI h` (R281). -/
def execLoadIdHi (h : BitVec 16) (s : State) : Host.Outcome State Fault Refusal :=
  let x := withHighHalf s.idStage h
  done { s with idStage := x } x

/-- `SET_FIELD k, s, e` (R282); `a` is the start nibble, `e` the end nibble. -/
def execSetField (k : BitVec 4) (a e : Octet) (s : State) : Host.Outcome State Fault Refusal :=
  if fieldInRange s k then done { s with fstage := s.fstage.set k.toNat ⟨a, e⟩ } 0
  else raise s .badarg

/-- The descriptor `REG_ADD` appends: the staged id and the whole of `FSTAGE` (R284). -/
def stagedDescriptor (s : State) (f : BitVec 5) (l c : Octet) : Descriptor where
  id := s.idStage
  ch := c
  len := l
  nf := f
  fields := (List.range s.cfg.maxFields).map s.fstageAt

/-- `REG_ADD f, l, c` (R284), its checks in R284's order. -/
def execRegAdd (f : BitVec 5) (l c : Octet) (s : State) : Host.Outcome State Fault Refusal :=
  if s.parEn then raise s .busy
  else if ¬ descriptorInRange s f l then raise s .badarg
  else if s.regCount.toNat = s.cfg.regCap then raise s .full
  else
    done { s with reg := Cells.write s.reg s.regCount.toNat (stagedDescriptor s f l c),
                  regCount := s.regCount + 1 } (s.regCount.setWidth 32)

/-- `RD_SLOT s, w` (R288); `k` is the slot. -/
def execRdSlot (k : BitVec 4) (w : BitVec 5) (s : State) : Host.Outcome State Fault Refusal :=
  if slotInRange s k w then done s (descriptorWord (s.regAt k.toNat) w) else raise s .badarg

/-- `LOOKUP c` (R290). -/
def execLookup (c : Octet) (s : State) : Host.Outcome State Fault Refusal :=
  done s (lookupWord (regLookup s s.idStage c))

end Sys2Proof.Machine
end

