-- ==== Sys2Proof/Machine/Parser.lean ====
section
/-! DEFINITION. The protocol parser, `PARSE_STEP` and `FEED_BIT` (42_parser.md). -/

namespace Sys2Proof.Machine

/-- The result record of `Deliver` (R221). -/
structure ParseRecord where
  completed : Bool := false
  cksOk     : Bool := false
  accepted  : Bool := false
  discarded : Bool := false
deriving DecidableEq, Repr

/-- Nibble assembly (R226): the new bit enters at the top. -/
def shiftBit (nib : Nibble) (b : BitVec 1) : Nibble := (nib >>> 1) ||| (b.setWidth 4 <<< 3)

/-- `DeviceId()` (R238): `MSG[k-1]` most significant, zero-extended to 32 bits. -/
def deviceId (s : State) : Word :=
  let k := s.cfg.chIdx s.proto
  (s.msgAt (k - 1) ++ s.msgAt (k - 2) ++ s.msgAt (k - 3) ++ s.msgAt (k - 4) : BitVec 16).setWidth 32

/-- The channel nibble, zero-extended (R239). -/
def channel (s : State) : Octet := (s.msgAt (s.cfg.chIdx s.proto)).setWidth 8

/-- `UnknownSensor()` (R240). -/
def unknownSensor (s : State) : State := s.countUnknown.parserRestart

/-- `Matched(slot)` (R241). -/
def matched (s : State) (k : Nat) : State :=
  { s with par := { s.par with matchv := true, slot := BitVec.ofNat 4 k, mlen := (s.regAt k).len, state := .body } }

/-- `Identify()` (R239). -/
def identify (s : State) : State :=
  match regLookup s (deviceId s) (channel s) with
  | none => unknownSensor s
  | some k => matched s k

/-- The indices `ID_START(p) .. L-3` the checksum sums over (R248). -/
def bodyIndices (s : State) : List Nat :=
  let s0 := s.cfg.idStart s.proto
  List.range' s0 (s.par.mlen.toNat - 2 - s0)

/-- The computed checksum (R248). -/
def checksumCalc (s : State) : Octet :=
  BitVec.ofNat 8 ((bodyIndices s).map (fun i => (s.msgAt i).toNat)).sum

/-- The transmitted checksum byte (R248): low nibble then high nibble. -/
def checksumRecv (s : State) : Octet :=
  s.msgAt (s.par.mlen.toNat - 1) ++ s.msgAt (s.par.mlen.toNat - 2)

/-- `Complete(res)` (R250). -/
def complete (s : State) (r : ParseRecord) : State × ParseRecord :=
  let computed := checksumCalc s
  let received := checksumRecv s
  let ok := computed == received
  let t : State := { s with res := ⟨true, ok, computed, received, s.par.slot, s.par.mlen⟩ }
  let r := { r with completed := true, cksOk := ok }
  if ok then
    let u := t.countCksOk
    ({ u with par := { u.par with state := .complete } }, r)
  else (t.countCksFail.parserRestart, r)

/-- `MSG[PAR.IDX] <- PAR.NIB; PAR.IDX <- PAR.IDX + 1` (R229). -/
def storeNibble (s : State) : State :=
  { s with msg := Cells.write s.msg s.par.idx.toNat s.par.nib, par := { s.par with idx := s.par.idx + 1 } }

/-- What the fourth accepted bit of a nibble does in `IDENT` and `BODY` (R225). -/
def nibbleDone (s : State) (r : ParseRecord) : State × ParseRecord :=
  if s.cfg.msgCap ≤ s.par.idx.toNat then (s.countBufOvf.parserRestart, r)
  else
    let t := storeNibble s
    if t.par.state = .ident ∧ t.par.idx.toNat = t.cfg.idNib t.proto then (identify t, r)
    else if t.par.state = .body ∧ t.par.idx = t.par.mlen then complete t r
    else (t, r)

/-- `Accept(b, res)` (R225). `COMPLETE` never reaches it (R221). -/
def accept (b : BitVec 1) (s : State) (r : ParseRecord) : State × ParseRecord :=
  let par := { s.par with nib := shiftBit s.par.nib b }
  match par.state with
  | .sync =>
    if par.nib = syncNibble then ({ s with par := { par with state := .ident, sub := 0, idx := 0 } }, r)
    else ({ s with par := par }, r)
  | .ident | .body =>
    let t := { s with par := { par with sub := par.sub + 1 } }
    if t.par.sub = 0 then nibbleDone t r else (t, r)
  | .complete => ({ s with par := par }, r)

/-- The v2.1 bit filter (R224): `none` is a discarded bit; under V21 the parity flips either way. -/
def filterBit (s : State) : State × Bool :=
  match s.proto with
  | .v3 => (s, true)
  | .v21 => ({ s with par := { s.par with bitpar := ~~~s.par.bitpar } }, s.par.bitpar == 0)

/-- A bit delivered outside `COMPLETE` (R221): the filter, then `Accept`. -/
def deliverBit (b : BitVec 1) (s : State) : State × ParseRecord :=
  let (t, keep) := filterBit s
  if keep then accept b t { accepted := true } else (t, {})

/-- `Deliver(s)` (R221). -/
def deliver (y : Symbol) (s : State) : State × ParseRecord :=
  if s.par.state = .complete then (s.countDiscard, { discarded := true })
  else match y with
    | .resync => (s.parserReset, {})
    | .one => deliverBit 1 s
    | .zero => deliverBit 0 s

/-- `ParseResult` (R253), of the state after the step. -/
def parseResult (y : Symbol) (s : State) (r : ParseRecord) : Word :=
  0#22 ++ parStateCode s.par.state ++ 0#2 ++ symbolCode y ++ BitVec.ofBool r.discarded ++
  BitVec.ofBool r.accepted ++ BitVec.ofBool r.cksOk ++ BitVec.ofBool r.completed

/-- `PARSE_STEP` without the ownership check and the response, as HOST and ENGINE both perform it (R118, R252); `none`
is an empty `BQ`. -/
def runParseStep (s : State) : Option (State × Word) :=
  match s.popBq with
  | none => none
  | some (y, t) =>
    let (u, r) := deliver y t
    some (u, parseResult y u r)

/-- `PARSE_STEP` issued by HOST (R252). -/
def execParseStep (s : State) : Host.Outcome State Fault Refusal :=
  if s.parEn then raise s .busy
  else match runParseStep s with
    | none => raise s .empty
    | some (t, w) => done t w

/-- `FEED_BIT b` (R254). -/
def execFeedBit (b : BitVec 1) (s : State) : Host.Outcome State Fault Refusal :=
  if s.parEn then raise s .busy
  else
    let (t, r) := deliver (symbolOfBit b) s
    done t (parseResult (symbolOfBit b) t r)

end Sys2Proof.Machine
end

