-- ==== Sys2Proof/Machine/PulsePort.lean ====
section
/-! DEFINITION. EDGE's one operation (40_pulse_queue.md). -/

namespace Sys2Proof.Machine

/-- `PUSH_PULSE d` (R155): ignored while `EDGE_EN = 0` (R157); a full queue loses the new pulse and records it (R156).
The pulse port has no response (R119). -/
def execPushPulse (d : Pulse) (s : State) : Host.Outcome State Fault Refusal :=
  if s.edgeEn then .next ((s.pushPq d).getD s.recordPqOvf) else .next s

end Sys2Proof.Machine
end

