-- ==== Sys2Proof/Machine/Dispatch.lean ====
section
/-! DEFINITION. One arm per operation of the opcode map: what EDGE (`PUSH_PULSE`) or HOST (every other) does with it. -/

namespace Sys2Proof.Machine

def exec (i : Instr) (s : State) : Host.Outcome State Fault Refusal :=
  match i with
  | .nop => Sys2Proof.Machine.execNop s
  | .pushPulse d => Sys2Proof.Machine.execPushPulse d s
  | .decStep => Sys2Proof.Machine.execDecStep s
  | .parseStep => Sys2Proof.Machine.execParseStep s
  | .popSymbol => Sys2Proof.Machine.execPopSymbol s
  | .feedBit b => Sys2Proof.Machine.execFeedBit b s
  | .reset m => Sys2Proof.Machine.execReset m s
  | .wrCtrl c => Sys2Proof.Machine.execWrCtrl c s
  | .rdCsr n => Sys2Proof.Machine.execRdCsr n s
  | .rdMsg k => Sys2Proof.Machine.execRdMsg k s
  | .loadIdLo h => Sys2Proof.Machine.execLoadIdLo h s
  | .loadIdHi h => Sys2Proof.Machine.execLoadIdHi h s
  | .setField k a e => Sys2Proof.Machine.execSetField k a e s
  | .regAdd f l c => Sys2Proof.Machine.execRegAdd f l c s
  | .rdSlot k w => Sys2Proof.Machine.execRdSlot k w s
  | .clrCnt => Sys2Proof.Machine.execClrCnt s
  | .lookup c => Sys2Proof.Machine.execLookup c s

end Sys2Proof.Machine
end

