-- ==== Sys2Proof/Machine/Engine.lean ====
section
/-! DEFINITION. How an operation reaches the block: ENGINE's schedule (44_control.md R340), the command port (30 R113,
R119), the pulse port (30 R125), and one turn of one agent (20 R89). -/

namespace Sys2Proof.Machine

/-- `ENGINE_CHOICE` (R340). -/
inductive Choice where
  | parse
  | decode
  | idle
deriving DecidableEq, Repr

/-- ENGINE's choice, from the state alone (R340): parsing has priority over decoding. -/
def engineChoice (s : State) : Choice :=
  if s.parEn ∧ ¬ s.bq.isEmpty then .parse
  else if s.decEn ∧ ¬ s.pq.isEmpty then .decode
  else .idle

/-- One ENGINE turn (R340): the chosen step with its result word discarded and no response, or nothing. -/
def engineStep (s : State) : State :=
  match engineChoice s with
  | .parse => ((runParseStep s).map Prod.fst).getD s
  | .decode => ((runDecStep s).map Prod.fst).getD s
  | .idle => s

/-- A command-port transfer (R113, R119): the operation of the word, or the response `ILLEGAL` (R115, R116). -/
def runCommand (w : Word) (s : State) : Host.Outcome State Fault Refusal :=
  match decodeCommand w with
  | .error _ => raise s .illegal
  | .ok i => exec i s

/-- One turn (R89): EDGE's transfer, HOST's command, or ENGINE's choice. -/
def runTurn (t : Turn) (s : State) : Host.Outcome State Fault Refusal :=
  match t with
  | .edge d => exec (decodePulse d) s
  | .host w => runCommand w s
  | .engine => .next (engineStep s)

/-- The next turn and the state that takes it: the first of `turns`; when none is left, ENGINE's (log 2). -/
def nextTurn (s : State) : Turn × State :=
  match s.turns with
  | [] => (.engine, s)
  | t :: rest => (t, { s with turns := rest })

/-- The turn on which a word of the opcode map reaches the block: opcode `0x01` is carried by the pulse port, every
other word by the command port (R114, R125). -/
def turnOfWord (w : Word) : Turn :=
  if opcodeOf w = 0x01 then .edge (w.extractLsb' 0 24) else .host w

end Sys2Proof.Machine
end

