-- ==== Sys2Proof/Machine/Step.lean ====
section
/-! DEFINITION. One step of the block: one turn of one agent (20_memory.md R88, R89). -/

namespace Sys2Proof.Machine

/-- One atomic step (R88, R89). An instance that breaks R9 is refused (R9, R380). -/
def step (s : State) : Host.Outcome State Fault Refusal :=
  if s.cfg.valid then runTurn (nextTurn s).1 (nextTurn s).2 else .fault .invalidInstance

/-- The block fetches nothing (R32): a word reaches it as a transfer on its port, here the very next turn (log 11). -/
def State.withFetchWord (s : State) (nbits w : Nat) : State :=
  { s with turns := turnOfWord (BitVec.ofNat 32 (w % 2 ^ nbits)) :: s.turns }

end Sys2Proof.Machine
end

