-- ==== Sys2Proof/Machine/Assembler.lean ====
section
/-! DEFINITION. The assembler syntax of 30_encoding.md R121: one operation per line, the mnemonic followed by its
fields separated by commas, each a decimal or `0x` hexadecimal integer, `;` starting a comment. DEDUCED (log 13): blanks, the
letter case of digits and empty lines, of which R121 says nothing. -/

namespace Sys2Proof.Machine

/-- A field value, refused when it does not fit its width (R121). -/
def fitField (width v : Nat) : Option (BitVec width) :=
  if v < 2 ^ width then some (BitVec.ofNat width v) else none

/-- A mnemonic with its fields in the order of R121. -/
def assembleOp (mnemonic : String) (args : List Nat) : Option Instr :=
  match mnemonic, args with
  | "NOP", [] => some .nop
  | "PUSH_PULSE", [d] => (fitField 24 d).map .pushPulse
  | "DEC_STEP", [] => some .decStep
  | "PARSE_STEP", [] => some .parseStep
  | "POP_SYMBOL", [] => some .popSymbol
  | "FEED_BIT", [b] => (fitField 1 b).map .feedBit
  | "RESET", [m] => (fitField 2 m).map .reset
  | "WR_CTRL", [c] => (fitField 4 c).map .wrCtrl
  | "RD_CSR", [n] => (fitField 8 n).map .rdCsr
  | "RD_MSG", [i] => (fitField 8 i).map .rdMsg
  | "LOAD_ID_LO", [h] => (fitField 16 h).map .loadIdLo
  | "LOAD_ID_HI", [h] => (fitField 16 h).map .loadIdHi
  | "SET_FIELD", [k, s, e] =>
      (fitField 4 k).bind fun k => (fitField 8 s).bind fun s => (fitField 8 e).map fun e => .setField k s e
  | "REG_ADD", [f, l, c] =>
      (fitField 5 f).bind fun f => (fitField 8 l).bind fun l => (fitField 8 c).map fun c => .regAdd f l c
  | "RD_SLOT", [s, w] => (fitField 4 s).bind fun s => (fitField 5 w).map fun w => .rdSlot s w
  | "CLR_CNT", [] => some .clrCnt
  | "LOOKUP", [c] => (fitField 8 c).map .lookup
  | _, _ => none

/-- The value of a digit in a base of at most 16. -/
def digitValue (base : Nat) (c : Char) : Option Nat :=
  let n := c.toNat
  let v := if 48 ≤ n ∧ n ≤ 57 then n - 48
    else if 65 ≤ n ∧ n ≤ 70 then n - 55
    else if 97 ≤ n ∧ n ≤ 102 then n - 87
    else 16
  if v < base then some v else none

/-- A numeral's value, most significant digit first, added to what stands before it. -/
def digitsValue (base : Nat) : List Char → Nat → Option Nat
  | [], acc => some acc
  | c :: rest, acc => (digitValue base c).bind fun v => digitsValue base rest (acc * base + v)

/-- A decimal or `0x` hexadecimal integer (R121). -/
def integerOf : List Char → Option Nat
  | [] => none
  | '0' :: 'x' :: c :: rest => digitsValue 16 (c :: rest) 0
  | c :: rest => digitsValue 10 (c :: rest) 0

/-- Space and tab. -/
def isBlank (c : Char) : Bool := c == ' ' || c == '\t'

/-- A text without the blanks at its ends. -/
def trimmed (cs : List Char) : List Char := ((cs.dropWhile isBlank).reverse.dropWhile isBlank).reverse

/-- The fields of a line, which commas separate; a line with no text after the mnemonic has none. -/
def integersOf (cs : List Char) : Option (List Nat) :=
  if trimmed cs = [] then some [] else (cs.splitOn ',').mapM (fun field => integerOf (trimmed field))

/-- One line of the syntax of R121: nothing, one operation, or (`none`) a line the assembler refuses. -/
def assembleLine (line : List Char) : Option (List Instr) :=
  let text := trimmed (line.takeWhile (fun c => c != ';'))
  if text = [] then some []
  else
    let mnemonic := text.takeWhile (fun c => !isBlank c)
    let rest := text.dropWhile (fun c => !isBlank c)
    (integersOf rest).bind fun args => (assembleOp (String.ofList mnemonic) args).map fun i => [i]

end Sys2Proof.Machine
end

