-- ==== Sys2Proof/Safety.lean ====
section
/-! DEFINITION. What a safe state and a safe run are, in the terms the statements use: the invariants of 10_state.md
R36, R38, R50, of 42_parser.md R229, R230, R243 and of 43_registry.md R284, and runs of operations and of pulses. -/

namespace Sys2Proof.Machine

/-- The queue invariant of R36, with R38's: every live element was written. -/
abbrev Queue.wf {α : Type} (cap : Nat) (q : Queue α) : Prop :=
  q.cnt.toNat ≤ cap ∧ q.rd.toNat < cap ∧ q.wr.toNat = (q.rd.toNat + q.cnt.toNat) % cap ∧
  Cells.wf cap q.buf ∧ ∀ k < q.cnt.toNat, (Cells.find q.buf ((q.rd.toNat + k) % cap)).isSome

/-- A slot that `REG_ADD` filled (R284): its length and field count were in range and it holds `MAX_FIELDS` pairs. -/
abbrev registered (s : State) (k : Nat) : Prop :=
  (Cells.find s.reg k).isSome ∧ s.cfg.minLenAll ≤ (s.regAt k).len.toNat ∧
  (s.regAt k).nf.toNat ≤ s.cfg.maxFields ∧ (s.regAt k).fields.length = s.cfg.maxFields

/-- The registry: at most `REG_CAP` valid slots, each registered, and nothing written above them (R50, R284, R286). -/
abbrev Registry.wf (s : State) : Prop :=
  s.regCount.toNat ≤ s.cfg.regCap ∧ Cells.wf s.cfg.regCap s.reg ∧
  (∀ k < s.regCount.toNat, registered s k) ∧ ∀ p ∈ s.reg, p.1 < s.regCount.toNat

/-- The parser's match record points at a valid slot and holds its length (R241). -/
abbrev matchRecorded (s : State) : Prop :=
  s.par.matchv = true ∧ s.par.slot.toNat < s.regCount.toNat ∧ s.par.mlen = (s.regAt s.par.slot.toNat).len

/-- No match is recorded (R222). -/
abbrev nothingMatched (s : State) : Prop := s.par.matchv = false ∧ s.par.slot = 0 ∧ s.par.mlen = 0

/-- What each parser state promises (R222, R227, R230, R239, R241, R243, R250). -/
def phaseWf (s : State) : Prop :=
  match s.par.state with
  | .sync => s.par.nib ≠ syncNibble ∧ s.par.idx = 0 ∧ s.par.sub = 0 ∧ nothingMatched s
  | .ident => s.par.idx.toNat < s.cfg.idNib s.proto ∧ nothingMatched s
  | .body => matchRecorded s ∧ s.cfg.idNib s.proto ≤ s.par.idx.toNat ∧ s.par.idx.toNat < s.par.mlen.toNat
  | .complete => matchRecorded s ∧ s.par.idx = s.par.mlen ∧ s.par.sub = 0 ∧ s.cfg.minLenAll ≤ s.par.mlen.toNat ∧
      s.res.done = true ∧ s.res.cksOk = true ∧ s.res.slot = s.par.slot ∧ s.res.len = s.par.mlen

/-- The parser and its buffer: `IDX` never passes `MSG_CAP` (R229), `MSG[0..IDX-1]` are written (R230), and `BITPAR` is
0 under V3 (R45). -/
def Parser.wf (s : State) : Prop :=
  s.par.idx.toNat ≤ s.cfg.msgCap ∧ Cells.wf s.cfg.msgCap s.msg ∧
  (∀ i < s.par.idx.toNat, (Cells.find s.msg i).isSome) ∧
  (s.proto = .v3 → s.par.bitpar = 0) ∧ phaseWf s

/-- A sticky flag is set exactly when its counter is not 0 (R52, R53, R332), and `CKS_OK` is only set with `DONE` (R48). -/
abbrev Events.wf (s : State) : Prop :=
  (s.pqOvf = true ↔ s.cnt.pqOvf ≠ 0) ∧ (s.bqOvf = true ↔ s.cnt.bqOvf ≠ 0) ∧
  (s.res.cksOk = true → s.res.done = true)

/-- The invariant of the machine. -/
structure Inv (s : State) : Prop where
  instanceValid : s.cfg.valid
  pulseQueue    : Queue.wf s.cfg.pqCap s.pq
  bitQueue      : Queue.wf s.cfg.bqCap s.bq
  registry      : Registry.wf s
  staging       : s.fstage.length = s.cfg.maxFields
  parser        : Parser.wf s
  events        : Events.wf s

/-- The constraints of R9 on the parameters themselves, with `MIN_LEN(p) = CH_IDX(p) + 3` written out. -/
abbrev instanceConstraints (c : Params) : Prop :=
  (1 ≤ c.pqCap ∧ c.pqCap ≤ 255) ∧ (1 ≤ c.bqCap ∧ c.bqCap ≤ 255) ∧ (4 ≤ c.chIdxV3 ∧ 4 ≤ c.chIdxV21) ∧
  (c.chIdxV3 + 3 ≤ c.msgCap ∧ c.chIdxV21 + 3 ≤ c.msgCap ∧ c.msgCap ≤ 255) ∧ (1 ≤ c.regCap ∧ c.regCap ≤ 16) ∧
  c.maxFields ≤ 16 ∧ (0 < c.tMin ∧ c.tMin < c.tSplit ∧ c.tSplit < c.tMax ∧ c.tMax ≤ 2 ^ 24 - 1)

/-- A counter that counted one event, saturating (R13, R53, R365). -/
abbrev countedOnce (before after : Count) : Prop := after.toNat = min (before.toNat + 1) 0xFFFF

/-- What offering a symbol to `BQ` does (R186): a full queue keeps its symbols and the loss is recorded, else the symbol
is the newest. `lost` says which. -/
def symbolOffered (y : Symbol) (lost : Bool) (s t : State) : Prop :=
  if s.bq.cnt.toNat = s.cfg.bqCap then
    lost = true ∧ t.bq = s.bq ∧ t.bqOvf = true ∧ countedOnce s.cnt.bqOvf t.cnt.bqOvf
  else
    lost = false ∧ t.symbols = s.symbols ++ [y] ∧ t.bqOvf = s.bqOvf ∧ t.cnt.bqOvf = s.cnt.bqOvf

/-- No symbol was offered to `BQ`. -/
abbrev nothingOffered (s t : State) : Prop := t.bq = s.bq ∧ t.bqOvf = s.bqOvf ∧ t.cnt.bqOvf = s.cnt.bqOvf

/-- `MSG[j] = v` after, and every other cell as before (R229). -/
abbrev storedNibble (j : Nat) (v : Nibble) (s t : State) : Prop :=
  t.msgAt j = v ∧ ∀ i, i ≠ j → t.msgAt i = s.msgAt i

/-- The last four accepted bits, the newest in bit 3 (R42, R226). -/
abbrev nextNibble (s : State) (b : BitVec 1) : Nibble := b ++ s.par.nib.extractLsb' 1 3

/-- The `ParseResult` word (R253) of an accepted bit, from the parser state after the step and the two low bits. -/
abbrev acceptedWord (p : BitVec 2) (b : BitVec 1) (verdict : BitVec 2) : Word :=
  0#22 ++ p ++ 0#3 ++ b ++ 0b01#2 ++ verdict

/-- The parser after a restart, which keeps `BITPAR` (R45, R222). -/
abbrev restarted (bitpar : BitVec 1) : Parser := ⟨.sync, 0, 0, 0, bitpar, false, 0, 0⟩

/-- A bit fed now is accepted, and leaves `BITPAR = q` (R224): under V3 always, `BITPAR` staying as it is; under V21 while
`BITPAR = 0`, which flips to 1. -/
abbrev acceptedParity (s : State) (q : BitVec 1) : Prop :=
  s.proto = .v3 ∧ q = s.par.bitpar ∨ s.proto = .v21 ∧ s.par.bitpar = 0 ∧ q = 1

/-- The sum of the nibbles `MSG[a..b-1]`, low 8 bits (R248). -/
abbrev nibbleSum (s : State) (a b : Nat) : Nat := ((Finset.Ico a b).sum fun i => (s.msgAt i).toNat) % 256

/-- The device id a message's nibbles carry, with the channel nibble at `k` (R238). -/
abbrev messageId (ns : List Nibble) (k : Nat) : Word :=
  (ns.getD (k - 1) 0 ++ ns.getD (k - 2) 0 ++ ns.getD (k - 3) 0 ++ ns.getD (k - 4) 0 : BitVec 16).setWidth 32

/-- A message's computed checksum, summed from the device-id start (R248). -/
abbrev messageSum (ns : List Nibble) (start : Nat) : Nat :=
  (((ns.take (ns.length - 2)).drop start).map BitVec.toNat).sum % 256

/-- A message's transmitted checksum byte, low nibble first (R248). -/
abbrev messageReceived (ns : List Nibble) : Octet := ns.getD (ns.length - 1) 0 ++ ns.getD (ns.length - 2) 0

/-- `REG[k]` is the first valid slot with this id and channel (R287). -/
abbrev firstMatch (s : State) (id : Word) (ch : Octet) (k : Nat) : Prop :=
  k < s.regCount.toNat ∧ (s.regAt k).id = id ∧ (s.regAt k).ch = ch ∧
  ∀ j < k, ¬ ((s.regAt j).id = id ∧ (s.regAt j).ch = ch)

/-- No valid slot has this id and channel (R287). -/
abbrev noMatch (s : State) (id : Word) (ch : Octet) : Prop :=
  ∀ j < s.regCount.toNat, ¬ ((s.regAt j).id = id ∧ (s.regAt j).ch = ch)

/-- A list of operations, each performed in the state its predecessor left; the first stop ends it. -/
def execAll : List Instr → State → Host.Outcome State Fault Refusal
  | [], s => .next s
  | i :: rest, s =>
    match exec i s with
    | .next t => execAll rest t
    | .fault r => .fault r
    | .refused r => .refused r

/-- The symbols that decoding a list of pulses produces, in order, whether or not they fit in `BQ` (R185). -/
def decodedSymbols : List Pulse → State → List Symbol
  | [], _ => []
  | d :: rest, s =>
    let r := decodeStep d s
    (r.2.sym.toList) ++ decodedSymbols rest r.1

/-- The pulses R187 gives for a run of bits after a bit `prev` at a bit boundary: a repeated bit is two short pulses, a
changed one is one long pulse. -/
def manchester (short long : Pulse) (prev : BitVec 1) : List (BitVec 1) → List Pulse
  | [] => []
  | b :: rest => (if b = prev then [short, short] else [long]) ++ manchester short long b rest

/-- A nibble's bits in the order they are sent, least significant first (R84, R226). -/
def nibbleBits (n : Nibble) : List (BitVec 1) :=
  [n.extractLsb' 0 1, n.extractLsb' 1 1, n.extractLsb' 2 1, n.extractLsb' 3 1]

/-- A message on the bit stream: the sync nibble, then every nibble (R227, R246). -/
def messageBits (ns : List Nibble) : List (BitVec 1) := (syncNibble :: ns).flatMap nibbleBits

end Sys2Proof.Machine
end

