-- ==== Sys2Proof/WellFormed.lean ====
section
/-! DEFINITION. What makes an operation well formed. The widths of R112 are in the types of the operands, so the
checks left are which agent may perform an operation (R114's port column, R374) and, for a pseudo-operation, whether
its expansion is encodable (R122). -/

namespace Sys2Proof

/-- An operation is well formed for an agent when that agent's port carries it (R374): EDGE performs only
`PUSH_PULSE`, ENGINE only `DEC_STEP` and `PARSE_STEP`, HOST every command-port operation. -/
def Instr.wellFormed (a : Agent) (i : Instr) : Bool :=
  match a, i with
  | .edge, .pushPulse _ => true
  | .edge, _ => false
  | .engine, .decStep => true
  | .engine, .parseStep => true
  | .engine, _ => false
  | .host, .pushPulse _ => false
  | .host, _ => true

/-- `ADD_SENSOR` expands to one `SET_FIELD` per pair, whose field number has 4 bits (R112, R122). -/
def Pseudo.wellFormed : Pseudo → Bool
  | .addSensor _ _ _ pairs => decide (pairs.length ≤ 16)
  | _ => true

end Sys2Proof
end

