-- ==== Sys2Proof/Certificates/Slice0/Obligations.lean ====
section
/-! DEFINITION. The statements for the provers. Each docstring names the rules of spec/ it rests on. -/

open Sys2Proof Sys2Proof.Machine

/-! ## Encoding and decoding -/

/-- R112 to R114: decoding an operation's word gives it back, and so does the command port for every operation HOST may
issue. -/
def Obligations.EncodeThenDecode : Prop :=
  ∀ i : Instr, decodeWord (encode i) = .ok i ∧ (i.wellFormed .host = true → decodeCommand (encode i) = .ok i)

/-- R112 to R114: a word that decodes is the word of what it decodes to, so each word has one meaning. -/
def Obligations.DecodeThenEncode : Prop :=
  ∀ (w : Word) (i : Instr), decodeWord w = .ok i → encode i = w

/-- R113: the command port performs exactly the words of HOST's operations. -/
def Obligations.CommandWordLegalIff : Prop :=
  ∀ w : Word, (∃ i, decodeCommand w = .ok i) ↔ ∃ i : Instr, i.wellFormed .host = true ∧ encode i = w

/-- R115, R116: a reserved opcode, opcode 0x01, or a reserved operand bit on the command port is answered `ILLEGAL` with
data 0, whatever the state, and changes nothing but the response. -/
def Obligations.IllegalWordAnsweredIllegal : Prop :=
  ∀ (s : State) (w : Word) (rest : List Turn), s.cfg.valid → s.turns = .host w :: rest →
    (opcodeOf w = 0x01 ∨ 0x11 ≤ opcodeOf w ∨
      ∃ r, opcodeTable[opcodeOf w]? = some r ∧ w &&& r.mask ≠ r.pat) →
    step s = .next { s with turns := rest, rsp := some ⟨.illegal, 0⟩ }

/-- R123: the worked encodings. -/
def Obligations.WorkedEncodings : Prop :=
  decodeCommand 0x05000001 = .ok (.feedBit 1) ∧ decodeCommand 0x06000003 = .ok (.reset 3) ∧
  decodeCommand 0x0700000F = .ok (.wrCtrl 0xF) ∧ decodeCommand 0x08000015 = .ok (.rdCsr 0x15) ∧
  decodeCommand 0x0A0002D1 = .ok (.loadIdLo 0x02D1) ∧ decodeCommand 0x0C000507 = .ok (.setField 0 5 7) ∧
  decodeCommand 0x0D010A01 = .ok (.regAdd 1 10 1) ∧ decodeCommand 0x0E030002 = .ok (.rdSlot 3 2) ∧
  decodeCommand 0x10000001 = .ok (.lookup 1) ∧
  decodeCommand 0x05000002 = .error .reservedBit ∧ decodeCommand 0x11000000 = .error .reservedOpcode

/-- R89, R113, R125: a step performs the operation its turn carries, in the state that has consumed the turn. With no turn
left the step is ENGINE's: that last clause is the model's choice (log 2). -/
def Obligations.StepRunsTurn : Prop :=
  ∀ (s : State) (rest : List Turn), s.cfg.valid →
    (∀ w i, s.turns = .host w :: rest → decodeCommand w = .ok i → step s = exec i { s with turns := rest }) ∧
    (∀ d, s.turns = .edge d :: rest → step s = exec (.pushPulse d) { s with turns := rest }) ∧
    (s.turns = .engine :: rest → step s = .next (engineStep { s with turns := rest })) ∧
    (s.turns = [] → step s = .next (engineStep s))

/-- R113, R125: a word placed on its port is the very next thing the block performs, and nothing else has changed. That
`withFetchWord` stands for the outside world placing it is the model's choice (log 11). -/
def Obligations.PlacedWordRunsNext : Prop :=
  ∀ (s : State) (i : Instr), s.cfg.valid → step (s.withFetchWord 32 (encode i).toNat) = exec i s

/-- R121: the assembler refuses a field value that does not fit its width, here for every operation with fields. -/
def Obligations.AssemblerRefusesMisfits : Prop :=
  ∀ a b c : Nat,
    ((assembleOp "PUSH_PULSE" [a]).isSome ↔ a < 2 ^ 24) ∧ ((assembleOp "FEED_BIT" [a]).isSome ↔ a < 2) ∧
    ((assembleOp "RESET" [a]).isSome ↔ a < 4) ∧ ((assembleOp "WR_CTRL" [a]).isSome ↔ a < 16) ∧
    ((assembleOp "RD_CSR" [a]).isSome ↔ a < 256) ∧ ((assembleOp "RD_MSG" [a]).isSome ↔ a < 256) ∧
    ((assembleOp "LOAD_ID_LO" [a]).isSome ↔ a < 2 ^ 16) ∧ ((assembleOp "LOAD_ID_HI" [a]).isSome ↔ a < 2 ^ 16) ∧
    ((assembleOp "SET_FIELD" [a, b, c]).isSome ↔ a < 16 ∧ b < 256 ∧ c < 256) ∧
    ((assembleOp "REG_ADD" [a, b, c]).isSome ↔ a < 32 ∧ b < 256 ∧ c < 256) ∧
    ((assembleOp "RD_SLOT" [a, b]).isSome ↔ a < 16 ∧ b < 32) ∧ ((assembleOp "LOOKUP" [a]).isSome ↔ a < 256)

/-! ## Reset, the invariant, and how a step can end -/

/-- R57: every element with a stated value has it after power-on, on every instance; the reset state is such a state. -/
def Obligations.PowerOnValues : Prop :=
  ∀ (c : Params) (p : Nat) (s : State), s = State.powerOn c p →
    s.cfg = c ∧ s.ctrl = 0 ∧ (s.edgeEn = false ∧ s.decEn = false ∧ s.parEn = false ∧ s.proto = .v3) ∧
    (s.pq.wr = 0 ∧ s.pq.rd = 0 ∧ s.pq.cnt = 0) ∧ (s.bq.wr = 0 ∧ s.bq.rd = 0 ∧ s.bq.cnt = 0) ∧
    (s.dec.cur = c.initBit ∧ s.dec.hc = 0 ∧ s.dec.first = true) ∧
    s.par = ⟨.sync, 0, 0, 0, 0, false, 0, 0⟩ ∧ s.res = ⟨false, false, 0, 0, 0, 0⟩ ∧ s.regCount = 0 ∧
    s.idStage = 0 ∧ s.fstage.length = c.maxFields ∧ (∀ k < c.maxFields, s.fstageAt k = ⟨0, 0⟩) ∧
    s.pqOvf = false ∧ s.bqOvf = false ∧ s.cnt = ⟨0, 0, 0, 0, 0, 0, 0, 0⟩

/-- The reset state, an instance with R8's default parameters (the model's choice, log 4), satisfies the invariant. -/
def Obligations.ResetSatisfiesInv : Prop := Inv State.reset

/-- Every valid instance powers on in a state that satisfies the invariant (R9, R36, R400). -/
def Obligations.PowerOnSatisfiesInv : Prop := ∀ (c : Params) (p : Nat), c.valid → Inv (State.powerOn c p)

/-- Every step of every agent keeps the invariant: queue cursors and counts (R36, R38), the registry (R50, R284), the
parser's phase, index and buffer (R222, R229, R230, R243), the flags and their counters (R52, R53). -/
def Obligations.StepKeepsInvariant : Prop := ∀ s t : State, Inv s → step s = .next t → Inv t

/-- R380, R8: on a valid instance every step has a next state and keeps the parameters. The model's choices: a step uses one
turn up, one with no turn left or an idle ENGINE turn included, where R340 takes no step (logs 1 and 2), and it keeps the
number of the power-on (log 6). -/
def Obligations.StepNeverStops : Prop :=
  ∀ s : State, s.cfg.valid → ∃ t, step s = .next t ∧ t.cfg = s.cfg ∧ t.power = s.power ∧ t.turns = s.turns.tail

/-- R9: parameters that break a constraint are refused at construction, others power on. That every step of a state with
such parameters faults is the model's reading of R9 (log 7): the spec only says that the instance is not constructed. -/
def Obligations.InvalidInstanceRefused : Prop :=
  ∀ (c : Params) (p : Nat),
    (instanceConstraints c → construct c p = .next (State.powerOn c p)) ∧
    (¬ instanceConstraints c → construct c p = .fault .invalidInstance ∧
      ∀ s : State, s.cfg = c → step s = .fault .invalidInstance)

/-! ## Queues and PUSH_PULSE -/

/-- R152, R158: an insertion into a queue that is not full makes the value the newest live element; into a full one it
overflows. -/
def Obligations.QueueInsertAppends : Prop :=
  ∀ (α : Type) (cap : Nat) (u : Nat → α) (q : Queue α) (v : α), cap ≤ 255 → Queue.wf cap q →
    (q.cnt.toNat = cap → q.insert cap v = none) ∧
    (q.cnt.toNat < cap → ∃ q', q.insert cap v = some q' ∧ q'.live cap u = q.live cap u ++ [v] ∧ Queue.wf cap q' ∧
      q'.wr.toNat = (q.wr.toNat + 1) % cap ∧ q'.rd = q.rd ∧ q'.cnt.toNat = q.cnt.toNat + 1)

/-- R153, R158: a removal takes the oldest live element; from an empty queue it underflows. -/
def Obligations.QueueRemoveTakesOldest : Prop :=
  ∀ (α : Type) (cap : Nat) (u : Nat → α) (q : Queue α), cap ≤ 255 → Queue.wf cap q →
    (q.cnt = 0 → q.remove cap u = none) ∧
    (q.cnt ≠ 0 → ∃ v q', q.remove cap u = some (v, q') ∧ q.live cap u = v :: q'.live cap u ∧ Queue.wf cap q' ∧
      q'.rd.toNat = (q.rd.toNat + 1) % cap ∧ q'.wr = q.wr ∧ q'.cnt.toNat = q.cnt.toNat - 1)

/-- R155: with `EDGE_EN = 1` and room in `PQ`, a pulse of any duration becomes the newest live pulse; nothing else
changes. -/
def Obligations.PushPulseQueues : Prop :=
  ∀ (s : State) (d : Pulse), Inv s → s.edgeEn = true → s.pq.cnt.toNat < s.cfg.pqCap →
    ∃ t, exec (.pushPulse d) s = .next t ∧ t.pulses = s.pulses ++ [d] ∧ t = { s with pq := t.pq }

/-- R156: a pulse rejected by a full `PQ` sets `PQ_OVF` and counts; the queue and everything else stay. -/
def Obligations.PushPulseOverflowRecorded : Prop :=
  ∀ (s : State) (d : Pulse), s.edgeEn = true → s.pq.cnt.toNat = s.cfg.pqCap →
    ∃ t, exec (.pushPulse d) s = .next t ∧ t.pqOvf = true ∧ countedOnce s.cnt.pqOvf t.cnt.pqOvf ∧
      t = { s with pqOvf := t.pqOvf, cnt := { s.cnt with pqOvf := t.cnt.pqOvf } }

/-- R157: with `EDGE_EN = 0` a pulse changes no state. -/
def Obligations.PushPulseMasked : Prop :=
  ∀ (s : State) (d : Pulse), s.edgeEn = false → exec (.pushPulse d) s = .next s

/-! ## Decoder -/

/-- R181: the three classes partition the durations at `T_MIN`, `T_SPLIT` and `T_MAX`; the boundary durations of R189 with
the source's constants. -/
def Obligations.PulseWindow : Prop :=
  (∀ (c : Params) (d : Pulse),
    (classify c d = .out ↔ d.toNat < c.tMin ∨ c.tMax ≤ d.toNat) ∧
    (classify c d = .short ↔ c.tMin ≤ d.toNat ∧ d.toNat < c.tMax ∧ d.toNat < c.tSplit) ∧
    (classify c d = .long ↔ c.tMin ≤ d.toNat ∧ d.toNat < c.tMax ∧ c.tSplit ≤ d.toNat)) ∧
  (∀ c : Params, c.tMin = 50 → c.tSplit = 750 → c.tMax = 1400 →
    classify c 49 = .out ∧ classify c 50 = .short ∧ classify c 749 = .short ∧ classify c 750 = .long ∧
    classify c 1399 = .long ∧ classify c 1400 = .out)

/-- R182, R190, R191, R194: `DEC_STEP` on an out-of-range pulse removes it, resets the decoder, counts in `CNT_RESYNC`,
offers `Resync` to `BQ` and answers with the result word; nothing else changes. -/
def Obligations.DecStepOutOfRange : Prop :=
  ∀ (s : State) (d : Pulse) (rest : List Pulse), Inv s → s.decEn = false → s.pulses = d :: rest →
    classify s.cfg d = .out →
    ∃ t lost, exec .decStep s = .next t ∧ t.pulses = rest ∧ t.dec = ⟨s.cfg.initBit, 0, true⟩ ∧
      countedOnce s.cnt.resync t.cnt.resync ∧ symbolOffered .resync lost s t ∧
      t.rsp = some ⟨.ok, d ++ 0#1 ++ 0#1 ++ 2#2 ++ BitVec.ofBool lost ++ 0b10#2 ++ 1#1⟩ ∧
      t = { s with pq := t.pq, bq := t.bq, dec := t.dec, bqOvf := t.bqOvf, rsp := t.rsp,
                   cnt := { s.cnt with resync := t.cnt.resync, bqOvf := t.cnt.bqOvf } }

/-- R183, R184, R186, R190, R191: `DEC_STEP` on an in-range pulse takes the long action (`LONG`, or `SHORT` while
`FIRST = 1`: flip the bit, keep the phase, clear `FIRST`) or the short action (flip the phase), offers the current bit
at a bit boundary and nothing mid-bit, and answers with the result word; nothing else changes. -/
def Obligations.DecStepInRange : Prop :=
  ∀ (s : State) (d : Pulse) (rest : List Pulse) (long : Bool) (cls : BitVec 2) (dec : Decoder),
    Inv s → s.decEn = false → s.pulses = d :: rest →
    (classify s.cfg d = .short ∧ cls = 0 ∨ classify s.cfg d = .long ∧ cls = 1) →
    (long = true ↔ classify s.cfg d = .long ∨ s.dec.first = true) →
    dec = (if long then ⟨~~~s.dec.cur, s.dec.hc, false⟩ else ⟨s.dec.cur, ~~~s.dec.hc, s.dec.first⟩) →
    ∃ t lost, exec .decStep s = .next t ∧ t.pulses = rest ∧ t.dec = dec ∧
      (dec.hc = 0 → symbolOffered (if dec.cur = 1 then .one else .zero) lost s t ∧
        t.rsp = some ⟨.ok, d ++ 0#1 ++ BitVec.ofBool long ++ cls ++ BitVec.ofBool lost ++ 0#1 ++ dec.cur ++ 1#1⟩) ∧
      (dec.hc = 1 → nothingOffered s t ∧
        t.rsp = some ⟨.ok, d ++ 0#1 ++ BitVec.ofBool long ++ cls ++ 0#4⟩) ∧
      t = { s with pq := t.pq, bq := t.bq, dec := t.dec, bqOvf := t.bqOvf, rsp := t.rsp,
                   cnt := { s.cnt with bqOvf := t.cnt.bqOvf } }

/-- R187: the pulses built from a run of bits decode to those bits, from a bit boundary; and from the decoder's initial
state the first in-range pulse of either class is the complement of `INIT_BIT` and reaches a boundary. -/
def Obligations.ManchesterRoundTrip : Prop :=
  ∀ (s : State) (short long first : Pulse) (bits : List (BitVec 1)),
    classify s.cfg short = .short → classify s.cfg long = .long →
    (s.dec.first = false → s.dec.hc = 0 →
      decodedSymbols (manchester short long s.dec.cur bits) s = bits.map symbolOfBit) ∧
    (s.dec = ⟨s.cfg.initBit, 0, true⟩ → classify s.cfg first ≠ .out →
      decodedSymbols (first :: manchester short long (~~~s.cfg.initBit) bits) s =
        (~~~s.cfg.initBit :: bits).map symbolOfBit)

/-- R193: `POP_SYMBOL` removes the oldest symbol and answers with its code; the parser and everything else stay. -/
def Obligations.PopSymbolTakesOldest : Prop :=
  ∀ (s : State) (y : Symbol) (rest : List Symbol), Inv s → s.parEn = false → s.symbols = y :: rest →
    ∃ t, exec .popSymbol s = .next t ∧ t.symbols = rest ∧
      t.rsp = some ⟨.ok, match y with | .zero => 0 | .one => 1 | .resync => 2⟩ ∧
      t = { s with bq := t.bq, rsp := t.rsp }

/-- R341: while ENGINE both decodes and parses, no step of any agent overflows `BQ`. -/
def Obligations.NoBitLossUnderEngine : Prop :=
  ∀ s t : State, s.decEn = true → s.parEn = true → step s = .next t →
    (t.bqOvf = true → s.bqOvf = true) ∧ (t.cnt.bqOvf = s.cnt.bqOvf ∨ t.cnt.bqOvf = 0)

/-! ## Parser -/

/-- R224 to R227: in `SYNC`, an accepted `FEED_BIT` (V3, or V21 with `BITPAR = 0`) shifts the bit in and compares the last
four accepted bits with the sync nibble; nothing is stored. -/
def Obligations.SyncSearchSlides : Prop :=
  ∀ (s : State) (b q : BitVec 1), s.parEn = false → acceptedParity s q → s.par.state = .sync →
    (nextNibble s b ≠ 0xA → exec (.feedBit b) s = .next
      { s with par := { s.par with nib := nextNibble s b, bitpar := q }, rsp := some ⟨.ok, acceptedWord 0 b 0⟩ }) ∧
    (nextNibble s b = 0xA → exec (.feedBit b) s = .next
      { s with par := { s.par with nib := 0xA, state := .ident, sub := 0, idx := 0, bitpar := q },
               rsp := some ⟨.ok, acceptedWord 1 b 0⟩ })

/-- R224 to R226, R228: in `IDENT` and `BODY`, an accepted bit (V3, or V21 with `BITPAR = 0`) that does not complete a
nibble is shifted in and counted. -/
def Obligations.BitWithinNibble : Prop :=
  ∀ (s : State) (b q : BitVec 1) (p : BitVec 2), s.parEn = false → acceptedParity s q → s.par.sub ≠ 3 →
    (s.par.state = .ident ∧ p = 1 ∨ s.par.state = .body ∧ p = 2) →
    exec (.feedBit b) s = .next
      { s with par := { s.par with nib := nextNibble s b, sub := s.par.sub + 1, bitpar := q },
               rsp := some ⟨.ok, acceptedWord p b 0⟩ }

/-- R224, R225, R229: the fourth accepted bit (V3, or V21 with `BITPAR = 0`) of a nibble that neither identifies nor
completes stores the nibble at `MSG[IDX]` and advances `IDX`. -/
def Obligations.NibbleStored : Prop :=
  ∀ (s : State) (b q : BitVec 1) (p : BitVec 2), s.parEn = false → acceptedParity s q → s.par.sub = 3 →
    s.par.idx.toNat < s.cfg.msgCap → s.cfg.msgCap ≤ 255 →
    (s.par.state = .ident ∧ p = 1 ∧ s.par.idx.toNat + 1 ≠ s.cfg.idNib s.proto ∨
     s.par.state = .body ∧ p = 2 ∧ s.par.idx.toNat + 1 ≠ s.par.mlen.toNat) →
    ∃ t, exec (.feedBit b) s = .next t ∧ storedNibble s.par.idx.toNat (nextNibble s b) s t ∧
      t.par = { s.par with nib := nextNibble s b, sub := 0, idx := s.par.idx + 1, bitpar := q } ∧
      t.rsp = some ⟨.ok, acceptedWord p b 0⟩ ∧ t = { s with par := t.par, msg := t.msg, rsp := t.rsp }

/-- R224, R244: a nibble that an accepted bit (V3, or V21 with `BITPAR = 0`) completes with `IDX >= MSG_CAP` is not stored;
`CNT_BUFOVF` counts and the parser restarts, keeping the `BITPAR` the bit left. -/
def Obligations.CapacityExceeded : Prop :=
  ∀ (s : State) (b q : BitVec 1), s.parEn = false → acceptedParity s q → s.par.sub = 3 →
    (s.par.state = .ident ∨ s.par.state = .body) → s.cfg.msgCap ≤ s.par.idx.toNat →
    ∃ t, exec (.feedBit b) s = .next t ∧ countedOnce s.cnt.bufOvf t.cnt.bufOvf ∧ t.par = restarted q ∧
      t.rsp = some ⟨.ok, acceptedWord 0 b 0⟩ ∧
      t = { s with par := t.par, cnt := { s.cnt with bufOvf := t.cnt.bufOvf }, rsp := t.rsp }

/-- R238: the device id weighs the four nibbles before the channel nibble, `MSG[k-1]` the most. -/
def Obligations.DeviceIdPacking : Prop :=
  ∀ (s : State) (k : Nat), k = s.cfg.chIdx s.proto →
    (deviceId s).toNat = (s.msgAt (k - 1)).toNat * 4096 + (s.msgAt (k - 2)).toNat * 256 +
      (s.msgAt (k - 3)).toNat * 16 + (s.msgAt (k - 4)).toNat ∧
    (channel s).toNat = (s.msgAt k).toNat

/-- R224, R239 to R241, R287: the nibble that completes the identity on an accepted bit (V3, or V21 with `BITPAR = 0`) is
stored and looked up with the id before it; no match counts in `CNT_UNKNOWN` and restarts the parser, keeping the `BITPAR`
the bit left; the first match is recorded with its length and enters `BODY`. -/
def Obligations.IdentificationDecides : Prop :=
  ∀ (s : State) (b q : BitVec 1), Inv s → s.parEn = false → acceptedParity s q → s.par.sub = 3 →
    s.par.state = .ident → s.par.idx.toNat + 1 = s.cfg.idNib s.proto →
    ∃ t, exec (.feedBit b) s = .next t ∧ storedNibble s.par.idx.toNat (nextNibble s b) s t ∧
      (noMatch s (deviceId t) (channel t) → countedOnce s.cnt.unknown t.cnt.unknown ∧ t.par = restarted q ∧
        t.rsp = some ⟨.ok, acceptedWord 0 b 0⟩ ∧
        t = { s with par := t.par, msg := t.msg, cnt := { s.cnt with unknown := t.cnt.unknown }, rsp := t.rsp }) ∧
      (∀ k, firstMatch s (deviceId t) (channel t) k →
        t.par = { s.par with nib := nextNibble s b, sub := 0, idx := s.par.idx + 1, bitpar := q, matchv := true,
                             slot := BitVec.ofNat 4 k, mlen := (s.regAt k).len, state := .body } ∧
        t.rsp = some ⟨.ok, acceptedWord 2 b 0⟩ ∧ t = { s with par := t.par, msg := t.msg, rsp := t.rsp })

/-- R224, R246, R248, R250: the last nibble, completed by an accepted bit (V3, or V21 with `BITPAR = 0`), is stored and the
checksum judged; `RES` is latched either way; a good message is held in `COMPLETE`, a bad one restarts the parser, keeping
the `BITPAR` the bit left; each has its counter. -/
def Obligations.CompletionJudged : Prop :=
  ∀ (s : State) (b q : BitVec 1), Inv s → s.parEn = false → acceptedParity s q → s.par.sub = 3 →
    s.par.state = .body → s.par.idx.toNat + 1 = s.par.mlen.toNat → s.par.idx.toNat < s.cfg.msgCap →
    ∃ t, exec (.feedBit b) s = .next t ∧ storedNibble s.par.idx.toNat (nextNibble s b) s t ∧
      t.res.done = true ∧ t.res.slot = s.par.slot ∧ t.res.len = s.par.mlen ∧
      t.res.computed.toNat = nibbleSum t (s.cfg.idStart s.proto) (s.par.mlen.toNat - 2) ∧
      t.res.received = t.msgAt (s.par.mlen.toNat - 1) ++ t.msgAt (s.par.mlen.toNat - 2) ∧
      (t.res.computed = t.res.received → t.res.cksOk = true ∧ countedOnce s.cnt.cksOk t.cnt.cksOk ∧
        t.par = { s.par with nib := nextNibble s b, sub := 0, idx := s.par.mlen, bitpar := q, state := .complete } ∧
        t.rsp = some ⟨.ok, acceptedWord 3 b 0b11⟩ ∧
        t = { s with par := t.par, msg := t.msg, res := t.res, cnt := { s.cnt with cksOk := t.cnt.cksOk },
                     rsp := t.rsp }) ∧
      (t.res.computed ≠ t.res.received → t.res.cksOk = false ∧ countedOnce s.cnt.cksFail t.cnt.cksFail ∧
        t.par = restarted q ∧ t.rsp = some ⟨.ok, acceptedWord 0 b 0b01⟩ ∧
        t = { s with par := t.par, msg := t.msg, res := t.res, cnt := { s.cnt with cksFail := t.cnt.cksFail },
                     rsp := t.rsp })

/-- R221, R253: in `COMPLETE` a fed bit, and any symbol of `BQ`, is discarded and counted and answered with the result word;
the held message stays. -/
def Obligations.CompleteDiscards : Prop :=
  ∀ s : State, Inv s → s.parEn = false → s.par.state = .complete →
    (∀ b : BitVec 1, ∃ t, exec (.feedBit b) s = .next t ∧ countedOnce s.cnt.discard t.cnt.discard ∧
      t.rsp = some ⟨.ok, 0#22 ++ 3#2 ++ 0#3 ++ b ++ 0b1000#4⟩ ∧
      t = { s with cnt := { s.cnt with discard := t.cnt.discard }, rsp := t.rsp }) ∧
    (∀ y rest, s.symbols = y :: rest → ∃ t, exec .parseStep s = .next t ∧ t.symbols = rest ∧
      countedOnce s.cnt.discard t.cnt.discard ∧
      t.rsp = some ⟨.ok, 0#22 ++ 3#2 ++ 0#2 ++ (match y with | .zero => 0#2 | .one => 1#2 | .resync => 2#2) ++ 0b1000#4⟩ ∧
      t = { s with bq := t.bq, cnt := { s.cnt with discard := t.cnt.discard }, rsp := t.rsp })

/-- R221, R223: outside `COMPLETE` a `Resync` from `BQ` puts the parser, `BITPAR` included, in its initial state and
changes neither `MSG` nor `RES` nor any counter. -/
def Obligations.ResyncResetsParser : Prop :=
  ∀ (s : State) (rest : List Symbol), Inv s → s.parEn = false → s.par.state ≠ .complete →
    s.symbols = .resync :: rest →
    ∃ t, exec .parseStep s = .next t ∧ t.symbols = rest ∧ t.par = ⟨.sync, 0, 0, 0, 0, false, 0, 0⟩ ∧
      t.rsp = some ⟨.ok, 0x020⟩ ∧ t = { s with bq := t.bq, par := t.par, rsp := t.rsp }

/-- R221, R252, R254: `PARSE_STEP` on a queued bit does to everything but `BQ` what `FEED_BIT` of that bit does. -/
def Obligations.ParseStepIsFeedBit : Prop :=
  ∀ (s : State) (b : BitVec 1) (y : Symbol) (rest : List Symbol), Inv s → s.parEn = false →
    y = (if b = 1 then .one else .zero) → s.symbols = y :: rest →
    ∃ t u, exec .parseStep s = .next t ∧ exec (.feedBit b) s = .next u ∧ t.symbols = rest ∧ u.bq = s.bq ∧
      t = { u with bq := t.bq }

/-- R224: under V21, outside `COMPLETE`, every bit flips `BITPAR` and is accepted iff `BITPAR` was 0; a discarded bit does
nothing else. Under V3 every bit is accepted and `BITPAR` stays. Bit 2 of the result word says accepted (R253). -/
def Obligations.BitFilter : Prop :=
  ∀ (s : State) (b : BitVec 1), s.parEn = false → s.par.state ≠ .complete →
    ∃ t r, exec (.feedBit b) s = .next t ∧ t.rsp = some r ∧ r.status = .ok ∧
      (s.proto = .v3 → t.par.bitpar = s.par.bitpar ∧ r.data.getLsbD 2 = true) ∧
      (s.proto = .v21 → s.par.bitpar = 0 → t.par.bitpar = 1 ∧ r.data.getLsbD 2 = true) ∧
      (s.proto = .v21 → s.par.bitpar = 1 → t = { s with par := { s.par with bitpar := 0 }, rsp := some r } ∧
        r.data.getLsbD 2 = false)

/-- R241, R256 (c): a step that brings the parser into `BODY` matched a registered sensor on both id and channel, so an
unregistered combination never reaches `BODY`. -/
def Obligations.BodyNeedsRegisteredSensor : Prop :=
  ∀ s t : State, Inv s → step s = .next t → s.par.state ≠ .body → t.par.state = .body →
    s.par.state = .ident ∧ firstMatch t (deviceId t) (channel t) t.par.slot.toNat

/-- R256 (a), (b): a whole v3 message, bit by bit from a parser in its initial state, for a registered sensor whose length
it has and which fits the buffer. `MSG` holds its nibbles, the cells above them stay; a correct checksum ends in
`COMPLETE`, a wrong one in the parser's initial state. -/
def Obligations.WholeMessageV3 : Prop :=
  ∀ (s : State) (ns : List Nibble) (k : Nat) (good : Prop), Inv s → s.parEn = false → s.proto = .v3 →
    s.par = ⟨.sync, 0, 0, 0, 0, false, 0, 0⟩ →
    firstMatch s (messageId ns s.cfg.chIdxV3) ((ns.getD s.cfg.chIdxV3 0).setWidth 8) k →
    (s.regAt k).len.toNat = ns.length → ns.length ≤ s.cfg.msgCap →
    (good ↔ messageSum ns (s.cfg.idStart .v3) = (messageReceived ns).toNat) →
    ∃ t, execAll ((messageBits ns).map .feedBit) s = .next t ∧
      (∀ i < ns.length, t.msgAt i = ns.getD i 0) ∧ (∀ i ≥ ns.length, t.msgAt i = s.msgAt i) ∧
      t.res.done = true ∧ t.res.slot.toNat = k ∧ t.res.len.toNat = ns.length ∧ t.res.computed.toNat = messageSum ns (s.cfg.idStart .v3) ∧
      t.res.received = messageReceived ns ∧
      (good → t.res.cksOk = true ∧
        t.par = ⟨.complete, ns.getD (ns.length - 1) 0, 0, BitVec.ofNat 8 ns.length, 0, true, BitVec.ofNat 4 k,
                 BitVec.ofNat 8 ns.length⟩ ∧
        countedOnce s.cnt.cksOk t.cnt.cksOk ∧ t.cnt = { s.cnt with cksOk := t.cnt.cksOk }) ∧
      (¬ good → t.par = ⟨.sync, 0, 0, 0, 0, false, 0, 0⟩ ∧ t.res.cksOk = false ∧
        countedOnce s.cnt.cksFail t.cnt.cksFail ∧ t.cnt = { s.cnt with cksFail := t.cnt.cksFail }) ∧
      t = { s with par := t.par, msg := t.msg, res := t.res, cnt := t.cnt, rsp := t.rsp }

/-- R224, R256 (a), (b): a whole v2.1 message, every bit sent twice, for a registered sensor whose length it has and which
fits the buffer. It is judged on the first copy of its last bit. A correct checksum ends in `COMPLETE`, which discards and
counts the second copy; after a wrong one, which keeps `BITPAR = 1`, the second copy is dropped by the filter and the parser
is in its initial state. -/
def Obligations.WholeMessageV21 : Prop :=
  ∀ (s : State) (ns : List Nibble) (k : Nat) (good : Prop), Inv s → s.parEn = false → s.proto = .v21 →
    s.par = ⟨.sync, 0, 0, 0, 0, false, 0, 0⟩ →
    firstMatch s (messageId ns s.cfg.chIdxV21) ((ns.getD s.cfg.chIdxV21 0).setWidth 8) k →
    (s.regAt k).len.toNat = ns.length → ns.length ≤ s.cfg.msgCap →
    (good ↔ messageSum ns (s.cfg.idStart .v21) = (messageReceived ns).toNat) →
    ∃ t, execAll ((messageBits ns).flatMap fun b => [.feedBit b, .feedBit b]) s = .next t ∧
      (∀ i < ns.length, t.msgAt i = ns.getD i 0) ∧ (∀ i ≥ ns.length, t.msgAt i = s.msgAt i) ∧ t.res.done = true ∧
      t.res.slot.toNat = k ∧ t.res.len.toNat = ns.length ∧
      t.res.computed.toNat = messageSum ns (s.cfg.idStart .v21) ∧ t.res.received = messageReceived ns ∧
      (good → t.res.cksOk = true ∧
        t.par = ⟨.complete, ns.getD (ns.length - 1) 0, 0, BitVec.ofNat 8 ns.length, 1, true, BitVec.ofNat 4 k,
                 BitVec.ofNat 8 ns.length⟩ ∧
        countedOnce s.cnt.cksOk t.cnt.cksOk ∧ countedOnce s.cnt.discard t.cnt.discard ∧
        t.cnt = { s.cnt with cksOk := t.cnt.cksOk, discard := t.cnt.discard }) ∧
      (¬ good → t.par = ⟨.sync, 0, 0, 0, 0, false, 0, 0⟩ ∧ t.res.cksOk = false ∧
        countedOnce s.cnt.cksFail t.cnt.cksFail ∧ t.cnt = { s.cnt with cksFail := t.cnt.cksFail }) ∧
      t = { s with par := t.par, msg := t.msg, res := t.res, cnt := t.cnt, rsp := t.rsp }

/-- R221, R251, R412: a message held in `COMPLETE` is changed by no step of any agent except HOST's `RESET` with the parser
bit or a `WR_CTRL` that changes `PROTO`. -/
def Obligations.CompletedMessageHeld : Prop :=
  ∀ s t : State, s.par.state = .complete → step s = .next t →
    (∀ m rest, s.turns = .host (encode (.reset m)) :: rest → m.getLsbD 1 = false) →
    (∀ c rest, s.turns = .host (encode (.wrCtrl c)) :: rest → protoOf c = s.proto) →
    t.par = s.par ∧ t.msg = s.msg ∧ t.res = s.res

/-! ## Registry -/

/-- R280, R281: each `LOAD_ID` writes its half of `ID_STAGE`, keeps the other, and answers with the new value. An id with a
high half that is not 0 is none the parser can form. -/
def Obligations.LoadIdHalves : Prop :=
  ∀ (s : State) (h : BitVec 16),
    encode (.loadIdLo h) = 0x0A000000 ||| h.setWidth 32 ∧ encode (.loadIdHi h) = 0x0B000000 ||| h.setWidth 32 ∧
    (∃ x : Word, exec (.loadIdLo h) s = .next { s with idStage := x, rsp := some ⟨.ok, x⟩ } ∧
      x.extractLsb' 0 16 = h ∧ x.extractLsb' 16 16 = s.idStage.extractLsb' 16 16) ∧
    (∃ x : Word, exec (.loadIdHi h) s = .next { s with idStage := x, rsp := some ⟨.ok, x⟩ } ∧
      x.extractLsb' 16 16 = h ∧ x.extractLsb' 0 16 = s.idStage.extractLsb' 0 16 ∧
      (h ≠ 0 → ∀ u : State, deviceId u ≠ x))

/-- R282: `SET_FIELD`, with its word, writes one staged pair, `s > e` included, and answers 0; a field number out of range
is `BADARG`. -/
def Obligations.SetFieldStages : Prop :=
  ∀ (s : State) (k : BitVec 4) (a e : Octet), s.fstage.length = s.cfg.maxFields →
    (encode (.setField k a e)).toNat = 0x0C000000 + k.toNat * 2 ^ 16 + a.toNat * 2 ^ 8 + e.toNat ∧
    (s.cfg.maxFields ≤ k.toNat → exec (.setField k a e) s = .next { s with rsp := some ⟨.badarg, 0⟩ }) ∧
    (k.toNat < s.cfg.maxFields → ∃ t, exec (.setField k a e) s = .next t ∧ t.fstageAt k.toNat = ⟨a, e⟩ ∧
      (∀ j, j ≠ k.toNat → t.fstageAt j = s.fstageAt j) ∧ t.fstage.length = s.fstage.length ∧
      t.rsp = some ⟨.ok, 0⟩ ∧ t = { s with fstage := t.fstage, rsp := t.rsp })

/-- R284: an accepted `REG_ADD` appends the staged descriptor at slot `REG_COUNT`, answers with the slot, and leaves every
other slot and the staging registers as they were. -/
def Obligations.RegAddAppends : Prop :=
  ∀ (s : State) (f : BitVec 5) (l c : Octet), s.parEn = false → f.toNat ≤ s.cfg.maxFields →
    s.cfg.minLenAll ≤ l.toNat → s.regCount.toNat < s.cfg.regCap → s.cfg.regCap ≤ 16 →
    ∃ t, exec (.regAdd f l c) s = .next t ∧ t.regCount.toNat = s.regCount.toNat + 1 ∧
      (t.regAt s.regCount.toNat).id = s.idStage ∧ (t.regAt s.regCount.toNat).ch = c ∧
      (t.regAt s.regCount.toNat).len = l ∧ (t.regAt s.regCount.toNat).nf = f ∧
      (t.regAt s.regCount.toNat).fields.length = s.cfg.maxFields ∧
      (∀ k < s.cfg.maxFields, fieldAt (t.regAt s.regCount.toNat) k = s.fstageAt k) ∧
      (∀ j, j ≠ s.regCount.toNat → t.regAt j = s.regAt j) ∧
      t.rsp = some ⟨.ok, s.regCount.setWidth 32⟩ ∧
      t = { s with reg := t.reg, regCount := t.regCount, rsp := t.rsp }

/-- R122, R282, R284: the pseudo-operation `ADD_SENSOR` registers the sensor it names, with its field pairs. -/
def Obligations.AddSensorRegisters : Prop :=
  ∀ (s : State) (x : Word) (c l : Octet) (pairs : List FieldPair), Inv s → s.parEn = false →
    pairs.length ≤ s.cfg.maxFields → s.cfg.minLenAll ≤ l.toNat → s.regCount.toNat < s.cfg.regCap →
    ∃ t, execAll (expand (.addSensor x c l pairs)) s = .next t ∧ t.regCount.toNat = s.regCount.toNat + 1 ∧
      (t.regAt s.regCount.toNat).id = x ∧ (t.regAt s.regCount.toNat).ch = c ∧ (t.regAt s.regCount.toNat).len = l ∧
      (t.regAt s.regCount.toNat).nf.toNat = pairs.length ∧
      (∀ k (h : k < pairs.length), fieldAt (t.regAt s.regCount.toNat) k = pairs[k]) ∧
      (∀ j, j ≠ s.regCount.toNat → t.regAt j = s.regAt j) ∧
      t = { s with reg := t.reg, regCount := t.regCount, idStage := x, fstage := t.fstage, rsp := t.rsp }

/-- R288: `RD_SLOT` answers with word 0 the id, word 1 `{nf, len, ch}`, words 2 and up the field pairs, and changes no
state; a slot or word out of range is `BADARG`. -/
def Obligations.RdSlotWords : Prop :=
  ∀ (s : State) (k : BitVec 4) (w : BitVec 5) (d : Descriptor), d = s.regAt k.toNat →
    (encode (.rdSlot k w)).toNat = 0x0E000000 + k.toNat * 2 ^ 16 + w.toNat ∧
    (s.regCount.toNat ≤ k.toNat ∨ s.cfg.maxFields + 2 ≤ w.toNat →
      exec (.rdSlot k w) s = .next { s with rsp := some ⟨.badarg, 0⟩ }) ∧
    (k.toNat < s.regCount.toNat → w.toNat < s.cfg.maxFields + 2 →
      (w = 0 → exec (.rdSlot k w) s = .next { s with rsp := some ⟨.ok, d.id⟩ }) ∧
      (w = 1 → exec (.rdSlot k w) s = .next { s with rsp := some ⟨.ok, 0#11 ++ d.nf ++ d.len ++ d.ch⟩ }) ∧
      (2 ≤ w.toNat → exec (.rdSlot k w) s = .next
        { s with rsp := some ⟨.ok, 0#16 ++ (fieldAt d (w.toNat - 2)).start ++ (fieldAt d (w.toNat - 2)).stop⟩ }))

/-- R287, R290: `LOOKUP` answers with the first valid slot that matches `ID_STAGE` and the channel, or 0. -/
def Obligations.LookupFirstMatch : Prop :=
  ∀ (s : State) (c : Octet), Inv s →
    (encode (.lookup c)).toNat = 0x10000000 + c.toNat ∧
    (noMatch s s.idStage c → exec (.lookup c) s = .next { s with rsp := some ⟨.ok, 0⟩ }) ∧
    (∀ k, firstMatch s s.idStage c k →
      exec (.lookup c) s = .next { s with rsp := some ⟨.ok, BitVec.ofNat 32 (0x100 + k)⟩ })

/-- R50, R286: no step of any agent changes a valid slot or lowers `REG_COUNT`. -/
def Obligations.RegistryAppendOnly : Prop :=
  ∀ s t : State, Inv s → step s = .next t →
    s.regCount.toNat ≤ t.regCount.toNat ∧ ∀ k < s.regCount.toNat, t.regAt k = s.regAt k

/-! ## Control, observation and responses -/

/-- R320: `NOP` answers `OK` with data 0 and does nothing; it is the word 0, and any other word of opcode 0 is illegal. -/
def Obligations.NopOnlyAnswers : Prop :=
  (∀ s : State, exec .nop s = .next { s with rsp := some ⟨.ok, 0⟩ }) ∧ encode .nop = 0 ∧
  (∀ w : Word, opcodeOf w = 0 → w ≠ 0 → ∃ e, decodeCommand w = .error e)

/-- R322, R402: `RESET m` resets the decoder with `m[0]`, the parser and the two latch flags with `m[1]`, answers `OK` and
keeps everything else; a second `RESET m` changes nothing. -/
def Obligations.ResetSelects : Prop :=
  ∀ (s : State) (m : BitVec 2), (encode (.reset m)).toNat = 0x06000000 + m.toNat ∧ ∃ t, exec (.reset m) s = .next t ∧
    t.dec = (if m.getLsbD 0 then ⟨s.cfg.initBit, 0, true⟩ else s.dec) ∧
    t.par = (if m.getLsbD 1 then ⟨.sync, 0, 0, 0, 0, false, 0, 0⟩ else s.par) ∧
    t.res = (if m.getLsbD 1 then { s.res with done := false, cksOk := false } else s.res) ∧
    t.rsp = some ⟨.ok, 0⟩ ∧ t = { s with dec := t.dec, par := t.par, res := t.res, rsp := t.rsp } ∧
    exec (.reset m) t = .next t

/-- R326: `WR_CTRL` writes `CTRL`; a change of `PROTO` puts the parser in its initial state, no other write touches it. -/
def Obligations.WrCtrlWrites : Prop :=
  ∀ (s : State) (c : BitVec 4),
    (encode (.wrCtrl c)).toNat = 0x07000000 + c.toNat ∧
    (c.getLsbD 3 = s.ctrl.getLsbD 3 → exec (.wrCtrl c) s = .next { s with ctrl := c, rsp := some ⟨.ok, 0⟩ }) ∧
    (c.getLsbD 3 ≠ s.ctrl.getLsbD 3 → exec (.wrCtrl c) s = .next
      { s with ctrl := c, par := ⟨.sync, 0, 0, 0, 0, false, 0, 0⟩, rsp := some ⟨.ok, 0⟩ })

/-- R55, R328: `RD_CSR` answers with the element at its number, laid out by R55, and changes nothing else; of a reserved
number it is refused with `BADARG`. -/
def Obligations.RdCsrView : Prop :=
  ∀ (s : State) (n : Octet), (encode (.rdCsr n)).toNat = 0x08000000 + n.toNat ∧
    (¬ (n ≤ 0x0A ∨ 0x10 ≤ n ∧ n ≤ 0x17 ∨ 0x1B ≤ n ∧ n ≤ 0x1F) →
      exec (.rdCsr n) s = .next { s with rsp := some ⟨.badarg, 0⟩ }) ∧
    ((n ≤ 0x0A ∨ 0x10 ≤ n ∧ n ≤ 0x17 ∨ 0x1B ≤ n ∧ n ≤ 0x1F) →
    ∃ w : Word, exec (.rdCsr n) s = .next { s with rsp := some ⟨.ok, w⟩ } ∧
      (n = 0x00 → w.toNat = s.ctrl.toNat) ∧
      (n = 0x01 → w.extractLsb' 10 22 = 0 ∧
        w.extractLsb' 8 2 = (match s.par.state with | .sync => 0 | .ident => 1 | .body => 2 | .complete => 3) ∧
        w.getLsbD 7 = s.res.cksOk ∧ w.getLsbD 6 = s.res.done ∧ w.getLsbD 5 = s.bqOvf ∧ w.getLsbD 4 = s.pqOvf ∧
        (w.getLsbD 3 = true ↔ s.bq.cnt.toNat = s.cfg.bqCap) ∧ (w.getLsbD 2 = true ↔ s.bq.cnt = 0) ∧
        (w.getLsbD 1 = true ↔ s.pq.cnt.toNat = s.cfg.pqCap) ∧ (w.getLsbD 0 = true ↔ s.pq.cnt = 0)) ∧
      (n = 0x02 → w.toNat = s.pq.cnt.toNat) ∧ (n = 0x03 → w.toNat = s.bq.cnt.toNat) ∧
      (n = 0x04 → w.extractLsb' 3 29 = 0 ∧ w.getLsbD 2 = s.dec.first ∧ w.extractLsb' 1 1 = s.dec.hc ∧
        w.extractLsb' 0 1 = s.dec.cur) ∧
      (n = 0x05 → w.extractLsb' 24 8 = s.par.mlen ∧ w.extractLsb' 22 2 = 0 ∧ w.extractLsb' 18 4 = s.par.slot ∧
        w.getLsbD 17 = s.par.matchv ∧ w.extractLsb' 16 1 = s.par.bitpar ∧ w.extractLsb' 8 8 = s.par.idx ∧
        w.extractLsb' 6 2 = s.par.sub ∧ w.extractLsb' 2 4 = s.par.nib ∧
        w.extractLsb' 0 2 = (match s.par.state with | .sync => 0 | .ident => 1 | .body => 2 | .complete => 3)) ∧
      (n = 0x06 → w.extractLsb' 24 8 = s.res.len ∧ w.extractLsb' 20 4 = 0 ∧ w.extractLsb' 16 4 = s.res.slot ∧
        w.extractLsb' 8 8 = s.res.received ∧ w.extractLsb' 0 8 = s.res.computed) ∧
      (n = 0x07 → w = s.idStage) ∧ (n = 0x08 → w.toNat = s.regCount.toNat) ∧
      (n = 0x09 → w.extractLsb' 16 16 = 0 ∧ w.extractLsb' 8 8 = s.pq.rd ∧ w.extractLsb' 0 8 = s.pq.wr) ∧
      (n = 0x0A → w.extractLsb' 16 16 = 0 ∧ w.extractLsb' 8 8 = s.bq.rd ∧ w.extractLsb' 0 8 = s.bq.wr) ∧
      (n = 0x10 → w.toNat = s.cnt.pqOvf.toNat) ∧ (n = 0x11 → w.toNat = s.cnt.bqOvf.toNat) ∧
      (n = 0x12 → w.toNat = s.cnt.resync.toNat) ∧ (n = 0x13 → w.toNat = s.cnt.unknown.toNat) ∧
      (n = 0x14 → w.toNat = s.cnt.cksFail.toNat) ∧ (n = 0x15 → w.toNat = s.cnt.cksOk.toNat) ∧
      (n = 0x16 → w.toNat = s.cnt.bufOvf.toNat) ∧ (n = 0x17 → w.toNat = s.cnt.discard.toNat) ∧
      (s.cfg.valid →
        (n = 0x1B → w.toNat = s.cfg.tMax) ∧ (n = 0x1C → w.toNat = s.cfg.tSplit) ∧ (n = 0x1D → w.toNat = s.cfg.tMin) ∧
        (n = 0x1E → w.extractLsb' 25 7 = 0 ∧ w.extractLsb' 24 1 = s.cfg.initBit ∧
          (w.extractLsb' 16 8).toNat = s.cfg.chIdxV21 ∧ (w.extractLsb' 8 8).toNat = s.cfg.chIdxV3 ∧
          (w.extractLsb' 0 8).toNat = s.cfg.maxFields) ∧
        (n = 0x1F → (w.extractLsb' 24 8).toNat = s.cfg.regCap ∧ (w.extractLsb' 16 8).toNat = s.cfg.msgCap ∧
          (w.extractLsb' 8 8).toNat = s.cfg.bqCap ∧ (w.extractLsb' 0 8).toNat = s.cfg.pqCap)))

/-- R330: `RD_MSG` answers with the cell's nibble in bits 3:0, for every value an unwritten cell may hold; an index out of
range is `BADARG`. -/
def Obligations.RdMsgReads : Prop :=
  ∀ (s : State) (i : Octet),
    (encode (.rdMsg i)).toNat = 0x09000000 + i.toNat ∧
    (i.toNat < s.cfg.msgCap → ∃ w : Word, exec (.rdMsg i) s = .next { s with rsp := some ⟨.ok, w⟩ } ∧
      w.extractLsb' 0 4 = s.msgAt i.toNat ∧ w.extractLsb' 4 28 = 0 ∧
      (∀ v, (i.toNat, v) ∈ s.msg → Cells.wf s.cfg.msgCap s.msg → w.extractLsb' 0 4 = v)) ∧
    (s.cfg.msgCap ≤ i.toNat → exec (.rdMsg i) s = .next { s with rsp := some ⟨.badarg, 0⟩ })

/-- R332: `CLR_CNT` clears the eight counters and the two sticky flags, answers `OK`, and keeps everything else. -/
def Obligations.ClrCntClears : Prop :=
  encode .clrCnt = 0x0F000000 ∧
  ∀ s : State, exec .clrCnt s = .next
    { s with cnt := ⟨0, 0, 0, 0, 0, 0, 0, 0⟩, pqOvf := false, bqOvf := false, rsp := some ⟨.ok, 0⟩ }

/-- R87: `RD_CSR`, `RD_MSG`, `RD_SLOT` and `LOOKUP` change nothing but the response and are idempotent: the same read
again gives the same state and answer. -/
def Obligations.ReadsChangeNothing : Prop :=
  ∀ (s : State) (i : Instr),
    ((∃ n, i = .rdCsr n) ∨ (∃ n, i = .rdMsg n) ∨ (∃ k w, i = .rdSlot k w) ∨ (∃ c, i = .lookup c)) →
    ∃ t, exec i s = .next t ∧ t = { s with rsp := t.rsp } ∧ exec i t = .next t

/-- R342: a HOST command is refused with `BUSY`, changing nothing, exactly when ENGINE owns what it would consume. -/
def Obligations.BusyExactlyWhenOwned : Prop :=
  ∀ (s : State) (i : Instr), i.wellFormed .host = true → ∃ t r, exec i s = .next t ∧ t.rsp = some r ∧
    (r.status = .busy ↔
      (i = .decStep ∧ s.decEn = true) ∨
      (s.parEn = true ∧
        (i = .parseStep ∨ i = .popSymbol ∨ (∃ b, i = .feedBit b) ∨ ∃ f l c, i = .regAdd f l c))) ∧
    (r.status = .busy → t = { s with rsp := some ⟨.busy, 0⟩ })

/-- R159, R282, R284, R288, R328, R330, R362, R363: what each of `BADARG`, `FULL` and `EMPTY` answers, for a command that
is not `BUSY`. -/
def Obligations.RefusalCauses : Prop :=
  ∀ (s t : State) (i : Instr) (r : Response), i.wellFormed .host = true → exec i s = .next t → t.rsp = some r →
    (r.status = .badarg ↔
      (∃ k a e, i = .setField k a e ∧ s.cfg.maxFields ≤ k.toNat) ∨
      (∃ f l c, i = .regAdd f l c ∧ s.parEn = false ∧ (s.cfg.maxFields < f.toNat ∨ l.toNat < s.cfg.minLenAll)) ∨
      (∃ k w, i = .rdSlot k w ∧ (s.regCount.toNat ≤ k.toNat ∨ s.cfg.maxFields + 2 ≤ w.toNat)) ∨
      (∃ n, i = .rdCsr n ∧ (0x0A < n ∧ n < 0x10 ∨ 0x17 < n ∧ n < 0x1B ∨ 0x1F < n)) ∨
      (∃ j, i = .rdMsg j ∧ s.cfg.msgCap ≤ j.toNat)) ∧
    (r.status = .full ↔ ∃ f l c, i = .regAdd f l c ∧ s.parEn = false ∧
      ¬ (s.cfg.maxFields < f.toNat ∨ l.toNat < s.cfg.minLenAll) ∧ s.regCount.toNat = s.cfg.regCap) ∧
    (r.status = .empty ↔
      (i = .decStep ∧ s.decEn = false ∧ s.pq.cnt = 0) ∨
      ((i = .parseStep ∨ i = .popSymbol) ∧ s.parEn = false ∧ s.bq.cnt = 0)) ∧
    r.status ≠ .illegal

/-- R363: a command answered with a status other than `OK` has data 0 and leaves the whole state unchanged but for the
response. -/
def Obligations.RefusalChangesNothing : Prop :=
  ∀ (s t : State) (w : Word) (r : Response), runCommand w s = .next t → t.rsp = some r → r.status ≠ .ok →
    r.data = 0 ∧ t = { s with rsp := some r }

/-- R119: every command word is answered with one response; a pulse and an ENGINE step give none. -/
def Obligations.OneResponsePerCommand : Prop :=
  (∀ (s : State) (w : Word), ∃ t r, runCommand w s = .next t ∧ t.rsp = some r) ∧
  (∀ (s t : State) (d : Pulse), exec (.pushPulse d) s = .next t → t.rsp = s.rsp) ∧
  (∀ s : State, (engineStep s).rsp = s.rsp)

/-! ## ENGINE -/

/-- R118, R340: ENGINE's step is the HOST command of the same name without the `BUSY` check and the response: parse first,
else decode, else nothing. `off` is the `CTRL` under which HOST may issue the command; `PROTO` stays. -/
def Obligations.EngineStepIsCommand : Prop :=
  ∀ (s : State) (off : BitVec 4), off.getLsbD 1 = false → off.getLsbD 2 = false →
    off.getLsbD 3 = s.ctrl.getLsbD 3 →
    (s.parEn = true → s.bq.cnt ≠ 0 → ∃ t, exec .parseStep { s with ctrl := off } = .next t ∧
      engineStep s = { t with ctrl := s.ctrl, rsp := s.rsp }) ∧
    (¬ (s.parEn = true ∧ s.bq.cnt ≠ 0) → s.decEn = true → s.pq.cnt ≠ 0 →
      ∃ t, exec .decStep { s with ctrl := off } = .next t ∧
        engineStep s = { t with ctrl := s.ctrl, rsp := s.rsp }) ∧
    (¬ (s.parEn = true ∧ s.bq.cnt ≠ 0) → ¬ (s.decEn = true ∧ s.pq.cnt ≠ 0) → engineStep s = s)

/-- R340, R343: with both enables set and no transfer arriving, ENGINE empties both queues in at most two steps a pulse and
one a symbol. That it moves whenever no transfer waits is the model's choice (log 2), the spec's fairness (R343). -/
def Obligations.EngineDrains : Prop :=
  ∀ s : State, Inv s → s.decEn = true → s.parEn = true → s.turns = [] →
    ∃ n t, n ≤ 2 * s.pq.cnt.toNat + s.bq.cnt.toNat ∧ Sys2Proof.core.run n s = .next t ∧
      t.pq.cnt = 0 ∧ t.bq.cnt = 0
end

