-- ==== Sys2Proof/Laws/Cells.lean ====
section
/-! SUPPORT. The laws of storage cells and of the queue primitives, and that every memory operation keeps the canonical
form. -/

namespace Sys2Proof.Machine

variable {α : Type}

theorem Cells.find_write_same (m : Cells α) (i : Nat) (v : α) : Cells.find (Cells.write m i v) i = some v := by
  induction m with
  | nil => simp [Cells.write, Cells.find]
  | cons p rest ih =>
    obtain ⟨j, w⟩ := p
    simp only [Cells.write]
    split
    · simp [Cells.find]
    · split
      · simp [Cells.find]
      · rename_i h
        simp [Cells.find, h, ih]

theorem Cells.find_write_other (m : Cells α) {i j : Nat} (v : α) (h : j ≠ i) :
    Cells.find (Cells.write m i v) j = Cells.find m j := by
  induction m with
  | nil => simp [Cells.write, Cells.find, h]
  | cons p rest ih =>
    obtain ⟨k, w⟩ := p
    simp only [Cells.write]
    split
    · simp [Cells.find, h]
    · split
      · rename_i h1 h2
        subst h2
        simp [Cells.find, h]
      · simp [Cells.find, ih]

/-- A read after a write of the same cell gives the value written. -/
@[simp] theorem Cells.read_write_same (u : Nat → α) (m : Cells α) (i : Nat) (v : α) :
    Cells.read u (Cells.write m i v) i = v := by
  simp [Cells.read, Cells.find_write_same]

/-- A write leaves every other cell alone. -/
theorem Cells.read_write_other (u : Nat → α) (m : Cells α) {i j : Nat} (v : α) (h : j ≠ i) :
    Cells.read u (Cells.write m i v) j = Cells.read u m j := by
  simp [Cells.read, Cells.find_write_other m v h]

/-- A cell once written stays written. -/
theorem Cells.find_write_isSome (m : Cells α) (i j : Nat) (v : α) (h : (Cells.find m j).isSome ∨ j = i) :
    (Cells.find (Cells.write m i v) j).isSome := by
  by_cases hj : j = i
  · subst hj; simp [Cells.find_write_same]
  · rw [Cells.find_write_other m v hj]; tauto

theorem Cells.mem_write {m : Cells α} {i : Nat} {v : α} {p : Nat × α} (h : p ∈ Cells.write m i v) :
    p = (i, v) ∨ p ∈ m := by
  induction m with
  | nil => simpa [Cells.write] using h
  | cons q rest ih =>
    obtain ⟨j, w⟩ := q
    simp only [Cells.write] at h
    split at h
    · simpa using h
    · split at h
      · rcases List.mem_cons.1 h with h | h
        · exact .inl h
        · exact .inr (List.mem_cons_of_mem _ h)
      · rcases List.mem_cons.1 h with h | h
        · exact .inr (h ▸ List.mem_cons_self)
        · exact (ih h).imp id (List.mem_cons_of_mem _)

/-- A write below the capacity keeps the canonical form. -/
theorem Cells.write_wf {cap : Nat} {m : Cells α} {i : Nat} (v : α) (h : Cells.wf cap m) (hi : i < cap) :
    Cells.wf cap (Cells.write m i v) := by
  refine ⟨?_, fun p hp => ?_⟩
  · have hp := h.1
    clear h
    induction m with
    | nil => simp [Cells.write]
    | cons q rest ih =>
      obtain ⟨j, w⟩ := q
      obtain ⟨h1, h2⟩ := List.pairwise_cons.1 hp
      simp only [Cells.write]
      split
      · rename_i hlt
        refine List.pairwise_cons.2 ⟨fun p hm => ?_, hp⟩
        rcases List.mem_cons.1 hm with rfl | hm
        · exact hlt
        · exact lt_trans hlt (h1 p hm)
      · split
        · rename_i heq
          subst heq
          exact List.pairwise_cons.2 ⟨h1, h2⟩
        · rename_i hnl hne
          refine List.pairwise_cons.2 ⟨fun p hm => ?_, ih h2⟩
          rcases Cells.mem_write hm with rfl | hm
          · simp only; omega
          · exact h1 p hm
  · rcases Cells.mem_write hp with rfl | hm
    · exact hi
    · exact h.2 p hm

/-- A cursor inside an 8-bit capacity advances by one modulo it. -/
theorem Queue.advance_toNat {cap : Nat} {c : Octet} (hc : c.toNat < cap) (hcap : cap ≤ 255) :
    (Queue.advance cap c).toNat = (c.toNat + 1) % cap := by
  have h1 : (c + 1).toNat = c.toNat + 1 := by
    rw [BitVec.toNat_add]; simp; omega
  have h2 : (c.toNat + 1) % cap < cap := Nat.mod_lt _ (by omega)
  rw [Queue.advance, BitVec.toNat_ofNat, h1, Nat.mod_eq_of_lt (by omega)]

/-- What `QInsert` can do (R152): overflow when full, else the value goes to the insertion cursor. -/
theorem Queue.insert_cases (cap : Nat) (q : Queue α) (v : α) :
    (q.cnt.toNat = cap ∧ q.insert cap v = none) ∨
    (q.cnt.toNat ≠ cap ∧ q.insert cap v = some
      { buf := Cells.write q.buf q.wr.toNat v, wr := Queue.advance cap q.wr, rd := q.rd, cnt := q.cnt + 1 }) := by
  by_cases h : q.cnt.toNat = cap <;> simp [Queue.insert, Queue.isFull, h]

/-- What `QRemove` can do (R153): underflow when empty, else the element at the removal cursor leaves. -/
theorem Queue.remove_cases (cap : Nat) (u : Nat → α) (q : Queue α) :
    (q.cnt = 0 ∧ q.remove cap u = none) ∨
    (q.cnt ≠ 0 ∧ q.remove cap u = some (Cells.read u q.buf q.rd.toNat,
      { buf := q.buf, wr := q.wr, rd := Queue.advance cap q.rd, cnt := q.cnt - 1 })) := by
  by_cases h : q.cnt = 0#8
  · exact .inl ⟨h, by simp [Queue.remove, Queue.isEmpty, h]⟩
  · exact .inr ⟨h, by simp [Queue.remove, Queue.isEmpty, h]⟩

theorem Queue.wf_wr_lt {cap : Nat} {q : Queue α} (h : Queue.wf cap q) : q.wr.toNat < cap := by
  rw [h.2.2.1]; exact Nat.mod_lt _ (by have := h.2.1; omega)

/-- `QInsert` keeps the queue invariant (R36). -/
theorem Queue.insert_wf {cap : Nat} {q q' : Queue α} {v : α} (hcap : cap ≤ 255) (h : Queue.wf cap q)
    (hq : q.insert cap v = some q') : Queue.wf cap q' := by
  obtain ⟨-, hn⟩ | ⟨hne, hs⟩ := Queue.insert_cases cap q v
  · rw [hn] at hq; cases hq
  rw [hs] at hq
  obtain rfl := Option.some.inj hq
  have hwr := Queue.wf_wr_lt h
  obtain ⟨hc, hr, hw, hb, hl⟩ := h
  have hcnt : (q.cnt + 1).toNat = q.cnt.toNat + 1 := by rw [BitVec.toNat_add]; simp; omega
  refine ⟨by simp only [hcnt]; omega, hr, ?_, Cells.write_wf v hb hwr, fun k hk => ?_⟩
  · simp only [hcnt]
    rw [Queue.advance_toNat hwr hcap, hw, Nat.mod_add_mod, Nat.add_assoc]
  · simp only [hcnt] at hk
    refine Cells.find_write_isSome _ _ _ _ ?_
    by_cases hk' : k < q.cnt.toNat
    · exact .inl (hl k hk')
    · have : k = q.cnt.toNat := by omega
      exact .inr (by rw [hw, this])

/-- `QRemove` keeps the queue invariant (R36). -/
theorem Queue.remove_wf {cap : Nat} {u : Nat → α} {q q' : Queue α} {v : α} (hcap : cap ≤ 255) (h : Queue.wf cap q)
    (hq : q.remove cap u = some (v, q')) : Queue.wf cap q' := by
  obtain ⟨-, hn⟩ | ⟨hne, hs⟩ := Queue.remove_cases cap u q
  · rw [hn] at hq; cases hq
  rw [hs] at hq
  obtain ⟨-, rfl⟩ := Prod.mk.inj (Option.some.inj hq)
  obtain ⟨hc, hr, hw, hb, hl⟩ := h
  have hpos : 0 < q.cnt.toNat := Nat.pos_of_ne_zero fun hz => hne (BitVec.eq_of_toNat_eq (by simpa using hz))
  have hcnt : (q.cnt - 1).toNat = q.cnt.toNat - 1 := by rw [BitVec.toNat_sub]; simp; omega
  have hadv := Queue.advance_toNat hr hcap
  refine ⟨by simp only [hcnt]; omega, ?_, ?_, hb, fun k hk => ?_⟩
  · simp only [hadv]; exact Nat.mod_lt _ (by omega)
  · simp only [hcnt, hadv, hw]
    rw [Nat.mod_add_mod]
    congr 1; omega
  · simp only [hcnt] at hk
    simp only [hadv]
    have := hl (k + 1) (by omega)
    rw [Nat.mod_add_mod]
    rwa [show q.rd.toNat + 1 + k = q.rd.toNat + (k + 1) by omega]

/-- Nothing is listed after power-on, so the memory of `State.reset` is in canonical form. -/
theorem Memory.reset_wf : Memory.wf State.reset := by
  simp [Memory.wf, Cells.wf, State.reset, State.powerOn, Queue.initial]

end Sys2Proof.Machine
end

