-- ==== Sys2Proof/Laws/State.lean ====
section
/-! SUPPORT. One lemma per field, and per accessor, of every named update of State. -/

namespace Sys2Proof.Machine

section
variable (s : State) (st : Status) (w : Word)
@[simp] theorem State.respond_cfg : (s.respond st w).cfg = s.cfg := rfl
@[simp] theorem State.respond_ctrl : (s.respond st w).ctrl = s.ctrl := rfl
@[simp] theorem State.respond_pq : (s.respond st w).pq = s.pq := rfl
@[simp] theorem State.respond_bq : (s.respond st w).bq = s.bq := rfl
@[simp] theorem State.respond_dec : (s.respond st w).dec = s.dec := rfl
@[simp] theorem State.respond_par : (s.respond st w).par = s.par := rfl
@[simp] theorem State.respond_msg : (s.respond st w).msg = s.msg := rfl
@[simp] theorem State.respond_res : (s.respond st w).res = s.res := rfl
@[simp] theorem State.respond_reg : (s.respond st w).reg = s.reg := rfl
@[simp] theorem State.respond_regCount : (s.respond st w).regCount = s.regCount := rfl
@[simp] theorem State.respond_idStage : (s.respond st w).idStage = s.idStage := rfl
@[simp] theorem State.respond_fstage : (s.respond st w).fstage = s.fstage := rfl
@[simp] theorem State.respond_pqOvf : (s.respond st w).pqOvf = s.pqOvf := rfl
@[simp] theorem State.respond_bqOvf : (s.respond st w).bqOvf = s.bqOvf := rfl
@[simp] theorem State.respond_cnt : (s.respond st w).cnt = s.cnt := rfl
@[simp] theorem State.respond_rsp : (s.respond st w).rsp = some ⟨st, w⟩ := rfl
@[simp] theorem State.respond_turns : (s.respond st w).turns = s.turns := rfl
@[simp] theorem State.respond_power : (s.respond st w).power = s.power := rfl
@[simp] theorem State.respond_edgeEn : (s.respond st w).edgeEn = s.edgeEn := rfl
@[simp] theorem State.respond_decEn : (s.respond st w).decEn = s.decEn := rfl
@[simp] theorem State.respond_parEn : (s.respond st w).parEn = s.parEn := rfl
@[simp] theorem State.respond_proto : (s.respond st w).proto = s.proto := rfl
@[simp] theorem State.respond_msgAt (i : Nat) : (s.respond st w).msgAt i = s.msgAt i := rfl
@[simp] theorem State.respond_regAt (k : Nat) : (s.respond st w).regAt k = s.regAt k := rfl
@[simp] theorem State.respond_fstageAt (k : Nat) : (s.respond st w).fstageAt k = s.fstageAt k := rfl
@[simp] theorem State.respond_pulses : (s.respond st w).pulses = s.pulses := rfl
@[simp] theorem State.respond_symbols : (s.respond st w).symbols = s.symbols := rfl
end

section
variable (s : State)
@[simp] theorem State.decReset_cfg : s.decReset.cfg = s.cfg := rfl
@[simp] theorem State.decReset_ctrl : s.decReset.ctrl = s.ctrl := rfl
@[simp] theorem State.decReset_pq : s.decReset.pq = s.pq := rfl
@[simp] theorem State.decReset_bq : s.decReset.bq = s.bq := rfl
@[simp] theorem State.decReset_dec : s.decReset.dec = Decoder.initial s.cfg.initBit := rfl
@[simp] theorem State.decReset_par : s.decReset.par = s.par := rfl
@[simp] theorem State.decReset_msg : s.decReset.msg = s.msg := rfl
@[simp] theorem State.decReset_res : s.decReset.res = s.res := rfl
@[simp] theorem State.decReset_reg : s.decReset.reg = s.reg := rfl
@[simp] theorem State.decReset_regCount : s.decReset.regCount = s.regCount := rfl
@[simp] theorem State.decReset_idStage : s.decReset.idStage = s.idStage := rfl
@[simp] theorem State.decReset_fstage : s.decReset.fstage = s.fstage := rfl
@[simp] theorem State.decReset_pqOvf : s.decReset.pqOvf = s.pqOvf := rfl
@[simp] theorem State.decReset_bqOvf : s.decReset.bqOvf = s.bqOvf := rfl
@[simp] theorem State.decReset_cnt : s.decReset.cnt = s.cnt := rfl
@[simp] theorem State.decReset_rsp : s.decReset.rsp = s.rsp := rfl
@[simp] theorem State.decReset_turns : s.decReset.turns = s.turns := rfl
@[simp] theorem State.decReset_power : s.decReset.power = s.power := rfl
@[simp] theorem State.decReset_edgeEn : s.decReset.edgeEn = s.edgeEn := rfl
@[simp] theorem State.decReset_decEn : s.decReset.decEn = s.decEn := rfl
@[simp] theorem State.decReset_parEn : s.decReset.parEn = s.parEn := rfl
@[simp] theorem State.decReset_proto : s.decReset.proto = s.proto := rfl
@[simp] theorem State.decReset_msgAt (i : Nat) : s.decReset.msgAt i = s.msgAt i := rfl
@[simp] theorem State.decReset_regAt (k : Nat) : s.decReset.regAt k = s.regAt k := rfl
@[simp] theorem State.decReset_fstageAt (k : Nat) : s.decReset.fstageAt k = s.fstageAt k := rfl
@[simp] theorem State.decReset_pulses : s.decReset.pulses = s.pulses := rfl
@[simp] theorem State.decReset_symbols : s.decReset.symbols = s.symbols := rfl
end

section
variable (s : State)
@[simp] theorem State.parserRestart_cfg : s.parserRestart.cfg = s.cfg := rfl
@[simp] theorem State.parserRestart_ctrl : s.parserRestart.ctrl = s.ctrl := rfl
@[simp] theorem State.parserRestart_pq : s.parserRestart.pq = s.pq := rfl
@[simp] theorem State.parserRestart_bq : s.parserRestart.bq = s.bq := rfl
@[simp] theorem State.parserRestart_dec : s.parserRestart.dec = s.dec := rfl
@[simp] theorem State.parserRestart_par : s.parserRestart.par = { Parser.initial with bitpar := s.par.bitpar } := rfl
@[simp] theorem State.parserRestart_msg : s.parserRestart.msg = s.msg := rfl
@[simp] theorem State.parserRestart_res : s.parserRestart.res = s.res := rfl
@[simp] theorem State.parserRestart_reg : s.parserRestart.reg = s.reg := rfl
@[simp] theorem State.parserRestart_regCount : s.parserRestart.regCount = s.regCount := rfl
@[simp] theorem State.parserRestart_idStage : s.parserRestart.idStage = s.idStage := rfl
@[simp] theorem State.parserRestart_fstage : s.parserRestart.fstage = s.fstage := rfl
@[simp] theorem State.parserRestart_pqOvf : s.parserRestart.pqOvf = s.pqOvf := rfl
@[simp] theorem State.parserRestart_bqOvf : s.parserRestart.bqOvf = s.bqOvf := rfl
@[simp] theorem State.parserRestart_cnt : s.parserRestart.cnt = s.cnt := rfl
@[simp] theorem State.parserRestart_rsp : s.parserRestart.rsp = s.rsp := rfl
@[simp] theorem State.parserRestart_turns : s.parserRestart.turns = s.turns := rfl
@[simp] theorem State.parserRestart_power : s.parserRestart.power = s.power := rfl
@[simp] theorem State.parserRestart_edgeEn : s.parserRestart.edgeEn = s.edgeEn := rfl
@[simp] theorem State.parserRestart_decEn : s.parserRestart.decEn = s.decEn := rfl
@[simp] theorem State.parserRestart_parEn : s.parserRestart.parEn = s.parEn := rfl
@[simp] theorem State.parserRestart_proto : s.parserRestart.proto = s.proto := rfl
@[simp] theorem State.parserRestart_msgAt (i : Nat) : s.parserRestart.msgAt i = s.msgAt i := rfl
@[simp] theorem State.parserRestart_regAt (k : Nat) : s.parserRestart.regAt k = s.regAt k := rfl
@[simp] theorem State.parserRestart_fstageAt (k : Nat) : s.parserRestart.fstageAt k = s.fstageAt k := rfl
@[simp] theorem State.parserRestart_pulses : s.parserRestart.pulses = s.pulses := rfl
@[simp] theorem State.parserRestart_symbols : s.parserRestart.symbols = s.symbols := rfl
end

section
variable (s : State)
@[simp] theorem State.parserReset_cfg : s.parserReset.cfg = s.cfg := rfl
@[simp] theorem State.parserReset_ctrl : s.parserReset.ctrl = s.ctrl := rfl
@[simp] theorem State.parserReset_pq : s.parserReset.pq = s.pq := rfl
@[simp] theorem State.parserReset_bq : s.parserReset.bq = s.bq := rfl
@[simp] theorem State.parserReset_dec : s.parserReset.dec = s.dec := rfl
@[simp] theorem State.parserReset_par : s.parserReset.par = Parser.initial := rfl
@[simp] theorem State.parserReset_msg : s.parserReset.msg = s.msg := rfl
@[simp] theorem State.parserReset_res : s.parserReset.res = s.res := rfl
@[simp] theorem State.parserReset_reg : s.parserReset.reg = s.reg := rfl
@[simp] theorem State.parserReset_regCount : s.parserReset.regCount = s.regCount := rfl
@[simp] theorem State.parserReset_idStage : s.parserReset.idStage = s.idStage := rfl
@[simp] theorem State.parserReset_fstage : s.parserReset.fstage = s.fstage := rfl
@[simp] theorem State.parserReset_pqOvf : s.parserReset.pqOvf = s.pqOvf := rfl
@[simp] theorem State.parserReset_bqOvf : s.parserReset.bqOvf = s.bqOvf := rfl
@[simp] theorem State.parserReset_cnt : s.parserReset.cnt = s.cnt := rfl
@[simp] theorem State.parserReset_rsp : s.parserReset.rsp = s.rsp := rfl
@[simp] theorem State.parserReset_turns : s.parserReset.turns = s.turns := rfl
@[simp] theorem State.parserReset_power : s.parserReset.power = s.power := rfl
@[simp] theorem State.parserReset_edgeEn : s.parserReset.edgeEn = s.edgeEn := rfl
@[simp] theorem State.parserReset_decEn : s.parserReset.decEn = s.decEn := rfl
@[simp] theorem State.parserReset_parEn : s.parserReset.parEn = s.parEn := rfl
@[simp] theorem State.parserReset_proto : s.parserReset.proto = s.proto := rfl
@[simp] theorem State.parserReset_msgAt (i : Nat) : s.parserReset.msgAt i = s.msgAt i := rfl
@[simp] theorem State.parserReset_regAt (k : Nat) : s.parserReset.regAt k = s.regAt k := rfl
@[simp] theorem State.parserReset_fstageAt (k : Nat) : s.parserReset.fstageAt k = s.fstageAt k := rfl
@[simp] theorem State.parserReset_pulses : s.parserReset.pulses = s.pulses := rfl
@[simp] theorem State.parserReset_symbols : s.parserReset.symbols = s.symbols := rfl
end

section
variable (s : State)
@[simp] theorem State.resetParser_cfg : s.resetParser.cfg = s.cfg := rfl
@[simp] theorem State.resetParser_ctrl : s.resetParser.ctrl = s.ctrl := rfl
@[simp] theorem State.resetParser_pq : s.resetParser.pq = s.pq := rfl
@[simp] theorem State.resetParser_bq : s.resetParser.bq = s.bq := rfl
@[simp] theorem State.resetParser_dec : s.resetParser.dec = s.dec := rfl
@[simp] theorem State.resetParser_par : s.resetParser.par = Parser.initial := rfl
@[simp] theorem State.resetParser_msg : s.resetParser.msg = s.msg := rfl
@[simp] theorem State.resetParser_res : s.resetParser.res = { s.res with done := false, cksOk := false } := rfl
@[simp] theorem State.resetParser_reg : s.resetParser.reg = s.reg := rfl
@[simp] theorem State.resetParser_regCount : s.resetParser.regCount = s.regCount := rfl
@[simp] theorem State.resetParser_idStage : s.resetParser.idStage = s.idStage := rfl
@[simp] theorem State.resetParser_fstage : s.resetParser.fstage = s.fstage := rfl
@[simp] theorem State.resetParser_pqOvf : s.resetParser.pqOvf = s.pqOvf := rfl
@[simp] theorem State.resetParser_bqOvf : s.resetParser.bqOvf = s.bqOvf := rfl
@[simp] theorem State.resetParser_cnt : s.resetParser.cnt = s.cnt := rfl
@[simp] theorem State.resetParser_rsp : s.resetParser.rsp = s.rsp := rfl
@[simp] theorem State.resetParser_turns : s.resetParser.turns = s.turns := rfl
@[simp] theorem State.resetParser_power : s.resetParser.power = s.power := rfl
@[simp] theorem State.resetParser_edgeEn : s.resetParser.edgeEn = s.edgeEn := rfl
@[simp] theorem State.resetParser_decEn : s.resetParser.decEn = s.decEn := rfl
@[simp] theorem State.resetParser_parEn : s.resetParser.parEn = s.parEn := rfl
@[simp] theorem State.resetParser_proto : s.resetParser.proto = s.proto := rfl
@[simp] theorem State.resetParser_msgAt (i : Nat) : s.resetParser.msgAt i = s.msgAt i := rfl
@[simp] theorem State.resetParser_regAt (k : Nat) : s.resetParser.regAt k = s.regAt k := rfl
@[simp] theorem State.resetParser_fstageAt (k : Nat) : s.resetParser.fstageAt k = s.fstageAt k := rfl
@[simp] theorem State.resetParser_pulses : s.resetParser.pulses = s.pulses := rfl
@[simp] theorem State.resetParser_symbols : s.resetParser.symbols = s.symbols := rfl
end

section
variable (s : State)
@[simp] theorem State.recordPqOvf_cfg : s.recordPqOvf.cfg = s.cfg := rfl
@[simp] theorem State.recordPqOvf_ctrl : s.recordPqOvf.ctrl = s.ctrl := rfl
@[simp] theorem State.recordPqOvf_pq : s.recordPqOvf.pq = s.pq := rfl
@[simp] theorem State.recordPqOvf_bq : s.recordPqOvf.bq = s.bq := rfl
@[simp] theorem State.recordPqOvf_dec : s.recordPqOvf.dec = s.dec := rfl
@[simp] theorem State.recordPqOvf_par : s.recordPqOvf.par = s.par := rfl
@[simp] theorem State.recordPqOvf_msg : s.recordPqOvf.msg = s.msg := rfl
@[simp] theorem State.recordPqOvf_res : s.recordPqOvf.res = s.res := rfl
@[simp] theorem State.recordPqOvf_reg : s.recordPqOvf.reg = s.reg := rfl
@[simp] theorem State.recordPqOvf_regCount : s.recordPqOvf.regCount = s.regCount := rfl
@[simp] theorem State.recordPqOvf_idStage : s.recordPqOvf.idStage = s.idStage := rfl
@[simp] theorem State.recordPqOvf_fstage : s.recordPqOvf.fstage = s.fstage := rfl
@[simp] theorem State.recordPqOvf_pqOvf : s.recordPqOvf.pqOvf = true := rfl
@[simp] theorem State.recordPqOvf_bqOvf : s.recordPqOvf.bqOvf = s.bqOvf := rfl
@[simp] theorem State.recordPqOvf_cnt : s.recordPqOvf.cnt = { s.cnt with pqOvf := bump s.cnt.pqOvf } := rfl
@[simp] theorem State.recordPqOvf_rsp : s.recordPqOvf.rsp = s.rsp := rfl
@[simp] theorem State.recordPqOvf_turns : s.recordPqOvf.turns = s.turns := rfl
@[simp] theorem State.recordPqOvf_power : s.recordPqOvf.power = s.power := rfl
@[simp] theorem State.recordPqOvf_edgeEn : s.recordPqOvf.edgeEn = s.edgeEn := rfl
@[simp] theorem State.recordPqOvf_decEn : s.recordPqOvf.decEn = s.decEn := rfl
@[simp] theorem State.recordPqOvf_parEn : s.recordPqOvf.parEn = s.parEn := rfl
@[simp] theorem State.recordPqOvf_proto : s.recordPqOvf.proto = s.proto := rfl
@[simp] theorem State.recordPqOvf_msgAt (i : Nat) : s.recordPqOvf.msgAt i = s.msgAt i := rfl
@[simp] theorem State.recordPqOvf_regAt (k : Nat) : s.recordPqOvf.regAt k = s.regAt k := rfl
@[simp] theorem State.recordPqOvf_fstageAt (k : Nat) : s.recordPqOvf.fstageAt k = s.fstageAt k := rfl
@[simp] theorem State.recordPqOvf_pulses : s.recordPqOvf.pulses = s.pulses := rfl
@[simp] theorem State.recordPqOvf_symbols : s.recordPqOvf.symbols = s.symbols := rfl
end

section
variable (s : State)
@[simp] theorem State.recordBqOvf_cfg : s.recordBqOvf.cfg = s.cfg := rfl
@[simp] theorem State.recordBqOvf_ctrl : s.recordBqOvf.ctrl = s.ctrl := rfl
@[simp] theorem State.recordBqOvf_pq : s.recordBqOvf.pq = s.pq := rfl
@[simp] theorem State.recordBqOvf_bq : s.recordBqOvf.bq = s.bq := rfl
@[simp] theorem State.recordBqOvf_dec : s.recordBqOvf.dec = s.dec := rfl
@[simp] theorem State.recordBqOvf_par : s.recordBqOvf.par = s.par := rfl
@[simp] theorem State.recordBqOvf_msg : s.recordBqOvf.msg = s.msg := rfl
@[simp] theorem State.recordBqOvf_res : s.recordBqOvf.res = s.res := rfl
@[simp] theorem State.recordBqOvf_reg : s.recordBqOvf.reg = s.reg := rfl
@[simp] theorem State.recordBqOvf_regCount : s.recordBqOvf.regCount = s.regCount := rfl
@[simp] theorem State.recordBqOvf_idStage : s.recordBqOvf.idStage = s.idStage := rfl
@[simp] theorem State.recordBqOvf_fstage : s.recordBqOvf.fstage = s.fstage := rfl
@[simp] theorem State.recordBqOvf_pqOvf : s.recordBqOvf.pqOvf = s.pqOvf := rfl
@[simp] theorem State.recordBqOvf_bqOvf : s.recordBqOvf.bqOvf = true := rfl
@[simp] theorem State.recordBqOvf_cnt : s.recordBqOvf.cnt = { s.cnt with bqOvf := bump s.cnt.bqOvf } := rfl
@[simp] theorem State.recordBqOvf_rsp : s.recordBqOvf.rsp = s.rsp := rfl
@[simp] theorem State.recordBqOvf_turns : s.recordBqOvf.turns = s.turns := rfl
@[simp] theorem State.recordBqOvf_power : s.recordBqOvf.power = s.power := rfl
@[simp] theorem State.recordBqOvf_edgeEn : s.recordBqOvf.edgeEn = s.edgeEn := rfl
@[simp] theorem State.recordBqOvf_decEn : s.recordBqOvf.decEn = s.decEn := rfl
@[simp] theorem State.recordBqOvf_parEn : s.recordBqOvf.parEn = s.parEn := rfl
@[simp] theorem State.recordBqOvf_proto : s.recordBqOvf.proto = s.proto := rfl
@[simp] theorem State.recordBqOvf_msgAt (i : Nat) : s.recordBqOvf.msgAt i = s.msgAt i := rfl
@[simp] theorem State.recordBqOvf_regAt (k : Nat) : s.recordBqOvf.regAt k = s.regAt k := rfl
@[simp] theorem State.recordBqOvf_fstageAt (k : Nat) : s.recordBqOvf.fstageAt k = s.fstageAt k := rfl
@[simp] theorem State.recordBqOvf_pulses : s.recordBqOvf.pulses = s.pulses := rfl
@[simp] theorem State.recordBqOvf_symbols : s.recordBqOvf.symbols = s.symbols := rfl
end

section
variable (s : State)
@[simp] theorem State.countResync_cfg : s.countResync.cfg = s.cfg := rfl
@[simp] theorem State.countResync_ctrl : s.countResync.ctrl = s.ctrl := rfl
@[simp] theorem State.countResync_pq : s.countResync.pq = s.pq := rfl
@[simp] theorem State.countResync_bq : s.countResync.bq = s.bq := rfl
@[simp] theorem State.countResync_dec : s.countResync.dec = s.dec := rfl
@[simp] theorem State.countResync_par : s.countResync.par = s.par := rfl
@[simp] theorem State.countResync_msg : s.countResync.msg = s.msg := rfl
@[simp] theorem State.countResync_res : s.countResync.res = s.res := rfl
@[simp] theorem State.countResync_reg : s.countResync.reg = s.reg := rfl
@[simp] theorem State.countResync_regCount : s.countResync.regCount = s.regCount := rfl
@[simp] theorem State.countResync_idStage : s.countResync.idStage = s.idStage := rfl
@[simp] theorem State.countResync_fstage : s.countResync.fstage = s.fstage := rfl
@[simp] theorem State.countResync_pqOvf : s.countResync.pqOvf = s.pqOvf := rfl
@[simp] theorem State.countResync_bqOvf : s.countResync.bqOvf = s.bqOvf := rfl
@[simp] theorem State.countResync_cnt : s.countResync.cnt = { s.cnt with resync := bump s.cnt.resync } := rfl
@[simp] theorem State.countResync_rsp : s.countResync.rsp = s.rsp := rfl
@[simp] theorem State.countResync_turns : s.countResync.turns = s.turns := rfl
@[simp] theorem State.countResync_power : s.countResync.power = s.power := rfl
@[simp] theorem State.countResync_edgeEn : s.countResync.edgeEn = s.edgeEn := rfl
@[simp] theorem State.countResync_decEn : s.countResync.decEn = s.decEn := rfl
@[simp] theorem State.countResync_parEn : s.countResync.parEn = s.parEn := rfl
@[simp] theorem State.countResync_proto : s.countResync.proto = s.proto := rfl
@[simp] theorem State.countResync_msgAt (i : Nat) : s.countResync.msgAt i = s.msgAt i := rfl
@[simp] theorem State.countResync_regAt (k : Nat) : s.countResync.regAt k = s.regAt k := rfl
@[simp] theorem State.countResync_fstageAt (k : Nat) : s.countResync.fstageAt k = s.fstageAt k := rfl
@[simp] theorem State.countResync_pulses : s.countResync.pulses = s.pulses := rfl
@[simp] theorem State.countResync_symbols : s.countResync.symbols = s.symbols := rfl
end

section
variable (s : State)
@[simp] theorem State.countUnknown_cfg : s.countUnknown.cfg = s.cfg := rfl
@[simp] theorem State.countUnknown_ctrl : s.countUnknown.ctrl = s.ctrl := rfl
@[simp] theorem State.countUnknown_pq : s.countUnknown.pq = s.pq := rfl
@[simp] theorem State.countUnknown_bq : s.countUnknown.bq = s.bq := rfl
@[simp] theorem State.countUnknown_dec : s.countUnknown.dec = s.dec := rfl
@[simp] theorem State.countUnknown_par : s.countUnknown.par = s.par := rfl
@[simp] theorem State.countUnknown_msg : s.countUnknown.msg = s.msg := rfl
@[simp] theorem State.countUnknown_res : s.countUnknown.res = s.res := rfl
@[simp] theorem State.countUnknown_reg : s.countUnknown.reg = s.reg := rfl
@[simp] theorem State.countUnknown_regCount : s.countUnknown.regCount = s.regCount := rfl
@[simp] theorem State.countUnknown_idStage : s.countUnknown.idStage = s.idStage := rfl
@[simp] theorem State.countUnknown_fstage : s.countUnknown.fstage = s.fstage := rfl
@[simp] theorem State.countUnknown_pqOvf : s.countUnknown.pqOvf = s.pqOvf := rfl
@[simp] theorem State.countUnknown_bqOvf : s.countUnknown.bqOvf = s.bqOvf := rfl
@[simp] theorem State.countUnknown_cnt : s.countUnknown.cnt = { s.cnt with unknown := bump s.cnt.unknown } := rfl
@[simp] theorem State.countUnknown_rsp : s.countUnknown.rsp = s.rsp := rfl
@[simp] theorem State.countUnknown_turns : s.countUnknown.turns = s.turns := rfl
@[simp] theorem State.countUnknown_power : s.countUnknown.power = s.power := rfl
@[simp] theorem State.countUnknown_edgeEn : s.countUnknown.edgeEn = s.edgeEn := rfl
@[simp] theorem State.countUnknown_decEn : s.countUnknown.decEn = s.decEn := rfl
@[simp] theorem State.countUnknown_parEn : s.countUnknown.parEn = s.parEn := rfl
@[simp] theorem State.countUnknown_proto : s.countUnknown.proto = s.proto := rfl
@[simp] theorem State.countUnknown_msgAt (i : Nat) : s.countUnknown.msgAt i = s.msgAt i := rfl
@[simp] theorem State.countUnknown_regAt (k : Nat) : s.countUnknown.regAt k = s.regAt k := rfl
@[simp] theorem State.countUnknown_fstageAt (k : Nat) : s.countUnknown.fstageAt k = s.fstageAt k := rfl
@[simp] theorem State.countUnknown_pulses : s.countUnknown.pulses = s.pulses := rfl
@[simp] theorem State.countUnknown_symbols : s.countUnknown.symbols = s.symbols := rfl
end

section
variable (s : State)
@[simp] theorem State.countCksFail_cfg : s.countCksFail.cfg = s.cfg := rfl
@[simp] theorem State.countCksFail_ctrl : s.countCksFail.ctrl = s.ctrl := rfl
@[simp] theorem State.countCksFail_pq : s.countCksFail.pq = s.pq := rfl
@[simp] theorem State.countCksFail_bq : s.countCksFail.bq = s.bq := rfl
@[simp] theorem State.countCksFail_dec : s.countCksFail.dec = s.dec := rfl
@[simp] theorem State.countCksFail_par : s.countCksFail.par = s.par := rfl
@[simp] theorem State.countCksFail_msg : s.countCksFail.msg = s.msg := rfl
@[simp] theorem State.countCksFail_res : s.countCksFail.res = s.res := rfl
@[simp] theorem State.countCksFail_reg : s.countCksFail.reg = s.reg := rfl
@[simp] theorem State.countCksFail_regCount : s.countCksFail.regCount = s.regCount := rfl
@[simp] theorem State.countCksFail_idStage : s.countCksFail.idStage = s.idStage := rfl
@[simp] theorem State.countCksFail_fstage : s.countCksFail.fstage = s.fstage := rfl
@[simp] theorem State.countCksFail_pqOvf : s.countCksFail.pqOvf = s.pqOvf := rfl
@[simp] theorem State.countCksFail_bqOvf : s.countCksFail.bqOvf = s.bqOvf := rfl
@[simp] theorem State.countCksFail_cnt : s.countCksFail.cnt = { s.cnt with cksFail := bump s.cnt.cksFail } := rfl
@[simp] theorem State.countCksFail_rsp : s.countCksFail.rsp = s.rsp := rfl
@[simp] theorem State.countCksFail_turns : s.countCksFail.turns = s.turns := rfl
@[simp] theorem State.countCksFail_power : s.countCksFail.power = s.power := rfl
@[simp] theorem State.countCksFail_edgeEn : s.countCksFail.edgeEn = s.edgeEn := rfl
@[simp] theorem State.countCksFail_decEn : s.countCksFail.decEn = s.decEn := rfl
@[simp] theorem State.countCksFail_parEn : s.countCksFail.parEn = s.parEn := rfl
@[simp] theorem State.countCksFail_proto : s.countCksFail.proto = s.proto := rfl
@[simp] theorem State.countCksFail_msgAt (i : Nat) : s.countCksFail.msgAt i = s.msgAt i := rfl
@[simp] theorem State.countCksFail_regAt (k : Nat) : s.countCksFail.regAt k = s.regAt k := rfl
@[simp] theorem State.countCksFail_fstageAt (k : Nat) : s.countCksFail.fstageAt k = s.fstageAt k := rfl
@[simp] theorem State.countCksFail_pulses : s.countCksFail.pulses = s.pulses := rfl
@[simp] theorem State.countCksFail_symbols : s.countCksFail.symbols = s.symbols := rfl
end

section
variable (s : State)
@[simp] theorem State.countCksOk_cfg : s.countCksOk.cfg = s.cfg := rfl
@[simp] theorem State.countCksOk_ctrl : s.countCksOk.ctrl = s.ctrl := rfl
@[simp] theorem State.countCksOk_pq : s.countCksOk.pq = s.pq := rfl
@[simp] theorem State.countCksOk_bq : s.countCksOk.bq = s.bq := rfl
@[simp] theorem State.countCksOk_dec : s.countCksOk.dec = s.dec := rfl
@[simp] theorem State.countCksOk_par : s.countCksOk.par = s.par := rfl
@[simp] theorem State.countCksOk_msg : s.countCksOk.msg = s.msg := rfl
@[simp] theorem State.countCksOk_res : s.countCksOk.res = s.res := rfl
@[simp] theorem State.countCksOk_reg : s.countCksOk.reg = s.reg := rfl
@[simp] theorem State.countCksOk_regCount : s.countCksOk.regCount = s.regCount := rfl
@[simp] theorem State.countCksOk_idStage : s.countCksOk.idStage = s.idStage := rfl
@[simp] theorem State.countCksOk_fstage : s.countCksOk.fstage = s.fstage := rfl
@[simp] theorem State.countCksOk_pqOvf : s.countCksOk.pqOvf = s.pqOvf := rfl
@[simp] theorem State.countCksOk_bqOvf : s.countCksOk.bqOvf = s.bqOvf := rfl
@[simp] theorem State.countCksOk_cnt : s.countCksOk.cnt = { s.cnt with cksOk := bump s.cnt.cksOk } := rfl
@[simp] theorem State.countCksOk_rsp : s.countCksOk.rsp = s.rsp := rfl
@[simp] theorem State.countCksOk_turns : s.countCksOk.turns = s.turns := rfl
@[simp] theorem State.countCksOk_power : s.countCksOk.power = s.power := rfl
@[simp] theorem State.countCksOk_edgeEn : s.countCksOk.edgeEn = s.edgeEn := rfl
@[simp] theorem State.countCksOk_decEn : s.countCksOk.decEn = s.decEn := rfl
@[simp] theorem State.countCksOk_parEn : s.countCksOk.parEn = s.parEn := rfl
@[simp] theorem State.countCksOk_proto : s.countCksOk.proto = s.proto := rfl
@[simp] theorem State.countCksOk_msgAt (i : Nat) : s.countCksOk.msgAt i = s.msgAt i := rfl
@[simp] theorem State.countCksOk_regAt (k : Nat) : s.countCksOk.regAt k = s.regAt k := rfl
@[simp] theorem State.countCksOk_fstageAt (k : Nat) : s.countCksOk.fstageAt k = s.fstageAt k := rfl
@[simp] theorem State.countCksOk_pulses : s.countCksOk.pulses = s.pulses := rfl
@[simp] theorem State.countCksOk_symbols : s.countCksOk.symbols = s.symbols := rfl
end

section
variable (s : State)
@[simp] theorem State.countBufOvf_cfg : s.countBufOvf.cfg = s.cfg := rfl
@[simp] theorem State.countBufOvf_ctrl : s.countBufOvf.ctrl = s.ctrl := rfl
@[simp] theorem State.countBufOvf_pq : s.countBufOvf.pq = s.pq := rfl
@[simp] theorem State.countBufOvf_bq : s.countBufOvf.bq = s.bq := rfl
@[simp] theorem State.countBufOvf_dec : s.countBufOvf.dec = s.dec := rfl
@[simp] theorem State.countBufOvf_par : s.countBufOvf.par = s.par := rfl
@[simp] theorem State.countBufOvf_msg : s.countBufOvf.msg = s.msg := rfl
@[simp] theorem State.countBufOvf_res : s.countBufOvf.res = s.res := rfl
@[simp] theorem State.countBufOvf_reg : s.countBufOvf.reg = s.reg := rfl
@[simp] theorem State.countBufOvf_regCount : s.countBufOvf.regCount = s.regCount := rfl
@[simp] theorem State.countBufOvf_idStage : s.countBufOvf.idStage = s.idStage := rfl
@[simp] theorem State.countBufOvf_fstage : s.countBufOvf.fstage = s.fstage := rfl
@[simp] theorem State.countBufOvf_pqOvf : s.countBufOvf.pqOvf = s.pqOvf := rfl
@[simp] theorem State.countBufOvf_bqOvf : s.countBufOvf.bqOvf = s.bqOvf := rfl
@[simp] theorem State.countBufOvf_cnt : s.countBufOvf.cnt = { s.cnt with bufOvf := bump s.cnt.bufOvf } := rfl
@[simp] theorem State.countBufOvf_rsp : s.countBufOvf.rsp = s.rsp := rfl
@[simp] theorem State.countBufOvf_turns : s.countBufOvf.turns = s.turns := rfl
@[simp] theorem State.countBufOvf_power : s.countBufOvf.power = s.power := rfl
@[simp] theorem State.countBufOvf_edgeEn : s.countBufOvf.edgeEn = s.edgeEn := rfl
@[simp] theorem State.countBufOvf_decEn : s.countBufOvf.decEn = s.decEn := rfl
@[simp] theorem State.countBufOvf_parEn : s.countBufOvf.parEn = s.parEn := rfl
@[simp] theorem State.countBufOvf_proto : s.countBufOvf.proto = s.proto := rfl
@[simp] theorem State.countBufOvf_msgAt (i : Nat) : s.countBufOvf.msgAt i = s.msgAt i := rfl
@[simp] theorem State.countBufOvf_regAt (k : Nat) : s.countBufOvf.regAt k = s.regAt k := rfl
@[simp] theorem State.countBufOvf_fstageAt (k : Nat) : s.countBufOvf.fstageAt k = s.fstageAt k := rfl
@[simp] theorem State.countBufOvf_pulses : s.countBufOvf.pulses = s.pulses := rfl
@[simp] theorem State.countBufOvf_symbols : s.countBufOvf.symbols = s.symbols := rfl
end

section
variable (s : State)
@[simp] theorem State.countDiscard_cfg : s.countDiscard.cfg = s.cfg := rfl
@[simp] theorem State.countDiscard_ctrl : s.countDiscard.ctrl = s.ctrl := rfl
@[simp] theorem State.countDiscard_pq : s.countDiscard.pq = s.pq := rfl
@[simp] theorem State.countDiscard_bq : s.countDiscard.bq = s.bq := rfl
@[simp] theorem State.countDiscard_dec : s.countDiscard.dec = s.dec := rfl
@[simp] theorem State.countDiscard_par : s.countDiscard.par = s.par := rfl
@[simp] theorem State.countDiscard_msg : s.countDiscard.msg = s.msg := rfl
@[simp] theorem State.countDiscard_res : s.countDiscard.res = s.res := rfl
@[simp] theorem State.countDiscard_reg : s.countDiscard.reg = s.reg := rfl
@[simp] theorem State.countDiscard_regCount : s.countDiscard.regCount = s.regCount := rfl
@[simp] theorem State.countDiscard_idStage : s.countDiscard.idStage = s.idStage := rfl
@[simp] theorem State.countDiscard_fstage : s.countDiscard.fstage = s.fstage := rfl
@[simp] theorem State.countDiscard_pqOvf : s.countDiscard.pqOvf = s.pqOvf := rfl
@[simp] theorem State.countDiscard_bqOvf : s.countDiscard.bqOvf = s.bqOvf := rfl
@[simp] theorem State.countDiscard_cnt : s.countDiscard.cnt = { s.cnt with discard := bump s.cnt.discard } := rfl
@[simp] theorem State.countDiscard_rsp : s.countDiscard.rsp = s.rsp := rfl
@[simp] theorem State.countDiscard_turns : s.countDiscard.turns = s.turns := rfl
@[simp] theorem State.countDiscard_power : s.countDiscard.power = s.power := rfl
@[simp] theorem State.countDiscard_edgeEn : s.countDiscard.edgeEn = s.edgeEn := rfl
@[simp] theorem State.countDiscard_decEn : s.countDiscard.decEn = s.decEn := rfl
@[simp] theorem State.countDiscard_parEn : s.countDiscard.parEn = s.parEn := rfl
@[simp] theorem State.countDiscard_proto : s.countDiscard.proto = s.proto := rfl
@[simp] theorem State.countDiscard_msgAt (i : Nat) : s.countDiscard.msgAt i = s.msgAt i := rfl
@[simp] theorem State.countDiscard_regAt (k : Nat) : s.countDiscard.regAt k = s.regAt k := rfl
@[simp] theorem State.countDiscard_fstageAt (k : Nat) : s.countDiscard.fstageAt k = s.fstageAt k := rfl
@[simp] theorem State.countDiscard_pulses : s.countDiscard.pulses = s.pulses := rfl
@[simp] theorem State.countDiscard_symbols : s.countDiscard.symbols = s.symbols := rfl
end

section
variable (s : State)
@[simp] theorem State.clearEvents_cfg : s.clearEvents.cfg = s.cfg := rfl
@[simp] theorem State.clearEvents_ctrl : s.clearEvents.ctrl = s.ctrl := rfl
@[simp] theorem State.clearEvents_pq : s.clearEvents.pq = s.pq := rfl
@[simp] theorem State.clearEvents_bq : s.clearEvents.bq = s.bq := rfl
@[simp] theorem State.clearEvents_dec : s.clearEvents.dec = s.dec := rfl
@[simp] theorem State.clearEvents_par : s.clearEvents.par = s.par := rfl
@[simp] theorem State.clearEvents_msg : s.clearEvents.msg = s.msg := rfl
@[simp] theorem State.clearEvents_res : s.clearEvents.res = s.res := rfl
@[simp] theorem State.clearEvents_reg : s.clearEvents.reg = s.reg := rfl
@[simp] theorem State.clearEvents_regCount : s.clearEvents.regCount = s.regCount := rfl
@[simp] theorem State.clearEvents_idStage : s.clearEvents.idStage = s.idStage := rfl
@[simp] theorem State.clearEvents_fstage : s.clearEvents.fstage = s.fstage := rfl
@[simp] theorem State.clearEvents_pqOvf : s.clearEvents.pqOvf = false := rfl
@[simp] theorem State.clearEvents_bqOvf : s.clearEvents.bqOvf = false := rfl
@[simp] theorem State.clearEvents_cnt : s.clearEvents.cnt = Counters.zero := rfl
@[simp] theorem State.clearEvents_rsp : s.clearEvents.rsp = s.rsp := rfl
@[simp] theorem State.clearEvents_turns : s.clearEvents.turns = s.turns := rfl
@[simp] theorem State.clearEvents_power : s.clearEvents.power = s.power := rfl
@[simp] theorem State.clearEvents_edgeEn : s.clearEvents.edgeEn = s.edgeEn := rfl
@[simp] theorem State.clearEvents_decEn : s.clearEvents.decEn = s.decEn := rfl
@[simp] theorem State.clearEvents_parEn : s.clearEvents.parEn = s.parEn := rfl
@[simp] theorem State.clearEvents_proto : s.clearEvents.proto = s.proto := rfl
@[simp] theorem State.clearEvents_msgAt (i : Nat) : s.clearEvents.msgAt i = s.msgAt i := rfl
@[simp] theorem State.clearEvents_regAt (k : Nat) : s.clearEvents.regAt k = s.regAt k := rfl
@[simp] theorem State.clearEvents_fstageAt (k : Nat) : s.clearEvents.fstageAt k = s.fstageAt k := rfl
@[simp] theorem State.clearEvents_pulses : s.clearEvents.pulses = s.pulses := rfl
@[simp] theorem State.clearEvents_symbols : s.clearEvents.symbols = s.symbols := rfl
end

end Sys2Proof.Machine
end

