-- ==== Sys2Proof/Laws/Ops.lean ====
section
/-! SUPPORT. One lemma per shared operation, saying once everything it can do, and what it leaves alone. -/

namespace Sys2Proof.Machine

variable {s t : State}

theorem pushPq_cases (s : State) (d : Pulse) :
    (∃ q, s.pq.insert s.cfg.pqCap d = some q ∧ s.pushPq d = some { s with pq := q }) ∨
    (s.pq.cnt.toNat = s.cfg.pqCap ∧ s.pushPq d = none) := by
  rcases Queue.insert_cases s.cfg.pqCap s.pq d with ⟨hc, hn⟩ | ⟨-, hs⟩
  · exact .inr ⟨hc, by simp [State.pushPq, hn]⟩
  · exact .inl ⟨_, hs, by simp [State.pushPq, hs]⟩

theorem pushBq_cases (s : State) (y : Symbol) :
    (∃ q, s.bq.insert s.cfg.bqCap y = some q ∧ s.pushBq y = some { s with bq := q }) ∨
    (s.bq.cnt.toNat = s.cfg.bqCap ∧ s.pushBq y = none) := by
  rcases Queue.insert_cases s.cfg.bqCap s.bq y with ⟨hc, hn⟩ | ⟨-, hs⟩
  · exact .inr ⟨hc, by simp [State.pushBq, hn]⟩
  · exact .inl ⟨_, hs, by simp [State.pushBq, hs]⟩

theorem popPq_cases (s : State) :
    (s.pq.cnt = 0 ∧ s.popPq = none) ∨
    (s.pq.cnt ≠ 0 ∧ ∃ d q, s.pq.remove s.cfg.pqCap (Config.pqPowerOn s.power) = some (d, q) ∧
      s.popPq = some (d, { s with pq := q })) := by
  rcases Queue.remove_cases s.cfg.pqCap (Config.pqPowerOn s.power) s.pq with ⟨hc, hn⟩ | ⟨hc, hs⟩
  · exact .inl ⟨hc, by simp [State.popPq, hn]⟩
  · exact .inr ⟨hc, _, _, hs, by simp [State.popPq, hs]⟩

theorem popBq_cases (s : State) :
    (s.bq.cnt = 0 ∧ s.popBq = none) ∨
    (s.bq.cnt ≠ 0 ∧ ∃ y q, s.bq.remove s.cfg.bqCap (Config.bqPowerOn s.power) = some (y, q) ∧
      s.popBq = some (y, { s with bq := q })) := by
  rcases Queue.remove_cases s.cfg.bqCap (Config.bqPowerOn s.power) s.bq with ⟨hc, hn⟩ | ⟨hc, hs⟩
  · exact .inl ⟨hc, by simp [State.popBq, hn]⟩
  · exact .inr ⟨hc, _, _, hs, by simp [State.popBq, hs]⟩

/-- What `emit` can do (R186). -/
theorem emit_cases (y : Symbol) (s : State) :
    (∃ q, s.bq.insert s.cfg.bqCap y = some q ∧ emit y s = ({ s with bq := q }, false)) ∨
    (s.bq.cnt.toNat = s.cfg.bqCap ∧ emit y s = (s.recordBqOvf, true)) := by
  rcases pushBq_cases s y with ⟨q, hi, hp⟩ | ⟨hc, hp⟩
  · exact .inl ⟨q, hi, by simp [emit, hp]⟩
  · exact .inr ⟨hc, by simp [emit, hp]⟩

/-- What `Decode` can do (R185): an `OUT` pulse, a bit boundary, or a mid-bit transition. -/
theorem decodeStep_cases (d : Pulse) (s : State) :
    (classify s.cfg d = .out ∧ decodeStep d s =
      ((emit .resync s.decReset.countResync).1,
       ⟨.out, false, some .resync, (emit .resync s.decReset.countResync).2⟩)) ∨
    (classify s.cfg d ≠ .out ∧ ∃ dec, dec = (if takesLong (classify s.cfg d) s.dec.first then s.dec.longAction
        else s.dec.shortAction) ∧
      ((dec.hc = 0 ∧ decodeStep d s = ((emit (symbolOfBit dec.cur) { s with dec := dec }).1,
          ⟨classify s.cfg d, takesLong (classify s.cfg d) s.dec.first, some (symbolOfBit dec.cur),
           (emit (symbolOfBit dec.cur) { s with dec := dec }).2⟩)) ∨
       (dec.hc ≠ 0 ∧ decodeStep d s = ({ s with dec := dec },
          ⟨classify s.cfg d, takesLong (classify s.cfg d) s.dec.first, none, false⟩)))) := by
  by_cases hc : classify s.cfg d = .out
  · exact .inl ⟨hc, by simp [decodeStep, hc]⟩
  · refine .inr ⟨hc, _, rfl, ?_⟩
    generalize hd : (if takesLong (classify s.cfg d) s.dec.first then s.dec.longAction else s.dec.shortAction) = dec
    by_cases hh : dec.hc = 0
    · exact .inl ⟨hh, by simp only [decodeStep, hc, hd, hh, if_true, if_false]⟩
    · exact .inr ⟨hh, by simp only [decodeStep, hc, hd, hh, if_false]⟩

/-- `emit` touches `BQ`, its flag and its counter only. -/
theorem emit_frame (y : Symbol) (s : State) :
    (emit y s).1 = { s with bq := (emit y s).1.bq, bqOvf := (emit y s).1.bqOvf, cnt := (emit y s).1.cnt } := by
  rcases emit_cases y s with ⟨q, -, h⟩ | ⟨-, h⟩ <;> rw [h] <;> rfl

/-- `Decode` touches the decoder, `BQ`, `BQ_OVF` and the counters only. -/
theorem decodeStep_frame (d : Pulse) (s : State) :
    (decodeStep d s).1 = { s with bq := (decodeStep d s).1.bq, dec := (decodeStep d s).1.dec,
                                  bqOvf := (decodeStep d s).1.bqOvf, cnt := (decodeStep d s).1.cnt } := by
  rcases decodeStep_cases d s with ⟨-, h⟩ | ⟨-, dec, -, ⟨-, h⟩ | ⟨-, h⟩⟩
  · rw [h]; rcases emit_cases .resync s.decReset.countResync with ⟨q, -, e⟩ | ⟨-, e⟩ <;> rw [e] <;> rfl
  · rw [h]; rcases emit_cases (symbolOfBit dec.cur) { s with dec := dec } with ⟨q, -, e⟩ | ⟨-, e⟩ <;> rw [e] <;> rfl
  · rw [h]

/-- What `DEC_STEP` can do once it is allowed (R190). -/
theorem runDecStep_cases (s : State) :
    (s.pq.cnt = 0 ∧ runDecStep s = none) ∨
    (s.pq.cnt ≠ 0 ∧ ∃ d q, s.pq.remove s.cfg.pqCap (Config.pqPowerOn s.power) = some (d, q) ∧
      runDecStep s = some ((decodeStep d { s with pq := q }).1, decResult d (decodeStep d { s with pq := q }).2)) := by
  rcases popPq_cases s with ⟨hc, h⟩ | ⟨hc, d, q, hr, h⟩
  · exact .inl ⟨hc, by simp [runDecStep, h]⟩
  · exact .inr ⟨hc, d, q, hr, by simp [runDecStep, h]⟩

/-- What `PARSE_STEP` can do once it is allowed (R252). -/
theorem runParseStep_cases (s : State) :
    (s.bq.cnt = 0 ∧ runParseStep s = none) ∨
    (s.bq.cnt ≠ 0 ∧ ∃ y q, s.bq.remove s.cfg.bqCap (Config.bqPowerOn s.power) = some (y, q) ∧
      runParseStep s = some ((deliver y { s with bq := q }).1,
        parseResult y (deliver y { s with bq := q }).1 (deliver y { s with bq := q }).2)) := by
  rcases popBq_cases s with ⟨hc, h⟩ | ⟨hc, y, q, hr, h⟩
  · exact .inl ⟨hc, by simp [runParseStep, h]⟩
  · exact .inr ⟨hc, y, q, hr, by simp [runParseStep, h]⟩

/-- What the registry lookup can answer (R287): the first matching valid slot, or none matches. -/
theorem regLookup_cases (s : State) (id : Word) (ch : Octet) :
    (∃ k < s.regCount.toNat, regLookup s id ch = some k ∧ slotMatches s id ch k = true ∧
      ∀ j < k, slotMatches s id ch j = false) ∨
    (regLookup s id ch = none ∧ ∀ k < s.regCount.toNat, slotMatches s id ch k = false) := by
  unfold regLookup
  cases h : (List.range s.regCount.toNat).find? (slotMatches s id ch) with
  | none => exact .inr ⟨rfl, fun k hk => by simpa using List.find?_eq_none.1 h k (List.mem_range.2 hk)⟩
  | some k =>
    obtain ⟨hk, hm, hb⟩ := List.find?_range_eq_some.1 h
    exact .inl ⟨k, List.mem_range.1 hm, rfl, hk, fun j hj => by simpa using hb j hj⟩

/-- What `Identify` can do (R239 to R241). -/
theorem identify_cases (s : State) :
    (regLookup s (deviceId s) (channel s) = none ∧ identify s = s.countUnknown.parserRestart) ∨
    (∃ k, regLookup s (deviceId s) (channel s) = some k ∧ identify s = matched s k) := by
  unfold identify
  cases h : regLookup s (deviceId s) (channel s) with
  | none => exact .inl ⟨rfl, rfl⟩
  | some k => exact .inr ⟨k, rfl, rfl⟩

/-- The latch a completion writes (R250). -/
def completionLatch (s : State) : Latch :=
  ⟨true, checksumCalc s == checksumRecv s, checksumCalc s, checksumRecv s, s.par.slot, s.par.mlen⟩

/-- What `Complete` can do (R250). -/
theorem complete_cases (s : State) (r : ParseRecord) :
    (checksumCalc s = checksumRecv s ∧ complete s r =
      ({ s with res := completionLatch s, cnt := { s.cnt with cksOk := bump s.cnt.cksOk },
                par := { s.par with state := .complete } }, { r with completed := true, cksOk := true })) ∨
    (checksumCalc s ≠ checksumRecv s ∧ complete s r =
      (({ s with res := completionLatch s } : State).countCksFail.parserRestart,
       { r with completed := true, cksOk := false })) := by
  by_cases h : checksumCalc s = checksumRecv s
  · exact .inl ⟨h, by simp [complete, completionLatch, h, State.countCksOk]⟩
  · exact .inr ⟨h, by simp [complete, completionLatch, h]⟩

/-- What the fourth bit of a nibble can do (R225). -/
theorem nibbleDone_cases (s : State) (r : ParseRecord) :
    (s.cfg.msgCap ≤ s.par.idx.toNat ∧ nibbleDone s r = (s.countBufOvf.parserRestart, r)) ∨
    (s.par.idx.toNat < s.cfg.msgCap ∧
      ((s.par.state = .ident ∧ (s.par.idx + 1).toNat = s.cfg.idNib s.proto ∧
          nibbleDone s r = (identify (storeNibble s), r)) ∨
       (s.par.state = .body ∧ s.par.idx + 1 = s.par.mlen ∧ nibbleDone s r = complete (storeNibble s) r) ∨
       (¬ (s.par.state = .ident ∧ (s.par.idx + 1).toNat = s.cfg.idNib s.proto) ∧
        ¬ (s.par.state = .body ∧ s.par.idx + 1 = s.par.mlen) ∧ nibbleDone s r = (storeNibble s, r)))) := by
  by_cases hc : s.cfg.msgCap ≤ s.par.idx.toNat
  · exact .inl ⟨hc, by simp [nibbleDone, hc]⟩
  · refine .inr ⟨by omega, ?_⟩
    have e1 : (storeNibble s).par.state = s.par.state := rfl
    have e2 : (storeNibble s).par.idx = s.par.idx + 1 := rfl
    have e3 : (storeNibble s).par.mlen = s.par.mlen := rfl
    have e4 : (storeNibble s).cfg.idNib (storeNibble s).proto = s.cfg.idNib s.proto := rfl
    by_cases h1 : s.par.state = .ident ∧ (s.par.idx + 1).toNat = s.cfg.idNib s.proto
    · exact .inl ⟨h1.1, h1.2, by simp only [nibbleDone, hc, e1, e2, e4, h1, and_self, if_true, if_false]⟩
    · by_cases h2 : s.par.state = .body ∧ s.par.idx + 1 = s.par.mlen
      · exact .inr (.inl ⟨h2.1, h2.2, by rw [nibbleDone, if_neg hc]; simp only [e1, e2, e3, e4]; rw [if_neg h1, if_pos h2]⟩)
      · exact .inr (.inr ⟨h1, h2, by simp only [nibbleDone, hc, e1, e2, e3, e4, h1, h2, if_false]⟩)

/-- What `Accept` can do outside `COMPLETE` (R225). -/
theorem accept_cases (b : BitVec 1) (s : State) (r : ParseRecord) :
    (s.par.state = .sync ∧ shiftBit s.par.nib b = syncNibble ∧ accept b s r =
      ({ s with par := { s.par with nib := syncNibble, state := .ident, sub := 0, idx := 0 } }, r)) ∨
    (s.par.state = .sync ∧ shiftBit s.par.nib b ≠ syncNibble ∧ accept b s r =
      ({ s with par := { s.par with nib := shiftBit s.par.nib b } }, r)) ∨
    ((s.par.state = .ident ∨ s.par.state = .body) ∧ s.par.sub + 1 = 0 ∧ accept b s r =
      nibbleDone { s with par := { s.par with nib := shiftBit s.par.nib b, sub := 0 } } r) ∨
    ((s.par.state = .ident ∨ s.par.state = .body) ∧ s.par.sub + 1 ≠ 0 ∧ accept b s r =
      ({ s with par := { s.par with nib := shiftBit s.par.nib b, sub := s.par.sub + 1 } }, r)) ∨
    s.par.state = .complete := by
  cases h : s.par.state with
  | sync =>
    by_cases hn : shiftBit s.par.nib b = syncNibble
    · exact .inl ⟨rfl, hn, by simp [accept, h, hn]⟩
    · exact .inr (.inl ⟨rfl, hn, by simp [accept, h, hn]⟩)
  | complete => simp
  | ident =>
    by_cases hn : s.par.sub + 1#2 = 0#2
    · exact .inr (.inr (.inl ⟨.inl rfl, hn, by simp [accept, h, hn]⟩))
    · exact .inr (.inr (.inr (.inl ⟨.inl rfl, hn, by simp [accept, h, hn]⟩)))
  | body =>
    by_cases hn : s.par.sub + 1#2 = 0#2
    · exact .inr (.inr (.inl ⟨.inr rfl, hn, by simp [accept, h, hn]⟩))
    · exact .inr (.inr (.inr (.inl ⟨.inr rfl, hn, by simp [accept, h, hn]⟩)))

/-- The state with the v2.1 parity flipped (R224). -/
def flipParity (s : State) : State := { s with par := { s.par with bitpar := ~~~s.par.bitpar } }

/-- What a bit delivered outside `COMPLETE` can do (R221, R224). -/
theorem deliverBit_cases (b : BitVec 1) (s : State) :
    (s.proto = .v3 ∧ deliverBit b s = accept b s { accepted := true }) ∨
    (s.proto = .v21 ∧ s.par.bitpar = 0 ∧ deliverBit b s = accept b (flipParity s) { accepted := true }) ∨
    (s.proto = .v21 ∧ s.par.bitpar ≠ 0 ∧ deliverBit b s = (flipParity s, {})) := by
  unfold deliverBit filterBit
  cases h : s.proto with
  | v3 => exact .inl ⟨rfl, by simp⟩
  | v21 =>
    by_cases hb : s.par.bitpar = 0#1
    · exact .inr (.inl ⟨rfl, hb, by simp [hb, flipParity]⟩)
    · exact .inr (.inr ⟨rfl, hb, by simp [hb, flipParity]⟩)

/-- The bit a data symbol carries. -/
def bitOf : Symbol → BitVec 1
  | .one => 1
  | _ => 0

/-- What `Deliver` can do (R221). -/
theorem deliver_cases (y : Symbol) (s : State) :
    (s.par.state = .complete ∧ deliver y s = (s.countDiscard, { discarded := true })) ∨
    (s.par.state ≠ .complete ∧ y = .resync ∧ deliver y s = (s.parserReset, {})) ∨
    (s.par.state ≠ .complete ∧ y ≠ .resync ∧ deliver y s = deliverBit (bitOf y) s) := by
  by_cases h : s.par.state = .complete
  · exact .inl ⟨h, by simp [deliver, h]⟩
  · cases y <;> simp [deliver, h, bitOf]

/-- The parser's own part of the state: what a delivery may change. -/
theorem identify_frame (s : State) :
    identify s = { s with par := (identify s).par, cnt := (identify s).cnt } := by
  rcases identify_cases s with ⟨-, h⟩ | ⟨k, -, h⟩ <;> rw [h] <;> rfl

theorem complete_frame (s : State) (r : ParseRecord) :
    (complete s r).1 = { s with par := (complete s r).1.par, res := (complete s r).1.res,
                                cnt := (complete s r).1.cnt } := by
  rcases complete_cases s r with ⟨-, h⟩ | ⟨-, h⟩ <;> rw [h] <;> rfl

theorem nibbleDone_frame (s : State) (r : ParseRecord) :
    (nibbleDone s r).1 = { s with par := (nibbleDone s r).1.par, msg := (nibbleDone s r).1.msg,
                                  res := (nibbleDone s r).1.res, cnt := (nibbleDone s r).1.cnt } := by
  rcases nibbleDone_cases s r with ⟨-, h⟩ | ⟨-, ⟨-, -, h⟩ | ⟨-, -, h⟩ | ⟨-, -, h⟩⟩
  · rw [h]; rfl
  · rw [h, identify_frame]; rfl
  · rw [h, complete_frame]; rfl
  · rw [h]; rfl

theorem accept_frame (b : BitVec 1) (s : State) (r : ParseRecord) :
    (accept b s r).1 = { s with par := (accept b s r).1.par, msg := (accept b s r).1.msg,
                                res := (accept b s r).1.res, cnt := (accept b s r).1.cnt } := by
  rcases accept_cases b s r with ⟨-, -, h⟩ | ⟨-, -, h⟩ | ⟨-, -, h⟩ | ⟨-, -, h⟩ | h
  · rw [h]
  · rw [h]
  · rw [h, nibbleDone_frame]
  · rw [h]
  · unfold accept; simp [h]

/-- `Deliver` touches `PAR`, `MSG`, `RES` and the counters only. -/
theorem deliver_frame (y : Symbol) (s : State) :
    (deliver y s).1 = { s with par := (deliver y s).1.par, msg := (deliver y s).1.msg,
                               res := (deliver y s).1.res, cnt := (deliver y s).1.cnt } := by
  rcases deliver_cases y s with ⟨-, h⟩ | ⟨-, -, h⟩ | ⟨-, -, h⟩
  · rw [h]; rfl
  · rw [h]; rfl
  · rw [h]
    rcases deliverBit_cases (bitOf y) s with ⟨-, h⟩ | ⟨-, -, h⟩ | ⟨-, -, h⟩
    · rw [h]; exact accept_frame ..
    · rw [h, accept_frame]; rfl
    · rw [h]; rfl

/-- What an ENGINE turn can do (R340). -/
theorem engineStep_cases (s : State) :
    (s.parEn = true ∧ s.bq.cnt ≠ 0 ∧ ∃ w, runParseStep s = some (engineStep s, w)) ∨
    (s.decEn = true ∧ s.pq.cnt ≠ 0 ∧ (s.parEn = true → s.bq.cnt = 0) ∧ ∃ w, runDecStep s = some (engineStep s, w)) ∨
    ((s.parEn = true → s.bq.cnt = 0) ∧ (s.decEn = true → s.pq.cnt = 0) ∧ engineStep s = s) := by
  by_cases h1 : s.parEn = true ∧ s.bq.cnt ≠ 0
  · have hc : engineChoice s = .parse := if_pos ⟨h1.1, by simpa [Queue.isEmpty] using h1.2⟩
    rcases runParseStep_cases s with ⟨h, -⟩ | ⟨-, y, q, -, h⟩
    · exact absurd h h1.2
    · exact .inl ⟨h1.1, h1.2, _, by rw [engineStep, hc]; simp [h]; rfl⟩
  · have hn : s.parEn = true → s.bq.cnt = 0 := fun hp => by by_contra hb; exact h1 ⟨hp, hb⟩
    have hnp : ¬ (s.parEn = true ∧ ¬ s.bq.isEmpty = true) := by simpa [Queue.isEmpty] using hn
    by_cases h2 : s.decEn = true ∧ s.pq.cnt ≠ 0
    · have hc : engineChoice s = .decode := by
        simp only [engineChoice, hnp, if_false]
        rw [if_pos ⟨h2.1, by simpa [Queue.isEmpty] using h2.2⟩]
      rcases runDecStep_cases s with ⟨h, -⟩ | ⟨-, d, q, -, h⟩
      · exact absurd h h2.2
      · exact .inr (.inl ⟨h2.1, h2.2, hn, _, by rw [engineStep, hc]; simp [h]; rfl⟩)
    · have hd : s.decEn = true → s.pq.cnt = 0 := fun hp => by by_contra hb; exact h2 ⟨hp, hb⟩
      have hnd : ¬ (s.decEn = true ∧ ¬ s.pq.isEmpty = true) := by simpa [Queue.isEmpty] using hd
      have hc : engineChoice s = .idle := by simp only [engineChoice, hnp, hnd, if_false]
      exact .inr (.inr ⟨hn, hd, by rw [engineStep, hc]⟩)

/-- What a step can do (R88, R89, R113): one turn of one agent. -/
theorem step_cases (h : step s = .next t) : s.cfg.valid ∧
    ((∃ d rest, s.turns = .edge d :: rest ∧ exec (.pushPulse d) { s with turns := rest } = .next t) ∨
     (∃ w rest e, s.turns = .host w :: rest ∧ decodeCommand w = .error e ∧
        t = ({ s with turns := rest } : State).respond .illegal 0) ∨
     (∃ w rest i, s.turns = .host w :: rest ∧ decodeCommand w = .ok i ∧ exec i { s with turns := rest } = .next t) ∨
     (∃ rest, (s.turns = .engine :: rest ∨ s.turns = [] ∧ rest = []) ∧ t = engineStep { s with turns := rest })) := by
  unfold step at h
  split at h
  case isFalse => cases h
  rename_i hv
  refine ⟨hv, ?_⟩
  cases ht : s.turns with
  | nil =>
    refine .inr (.inr (.inr ⟨[], .inr ⟨rfl, rfl⟩, ?_⟩))
    simp only [nextTurn, ht, runTurn] at h
    have : ({ s with turns := [] } : State) = s := by rw [← ht]
    rw [this]
    exact (Host.Outcome.next.inj h).symm
  | cons u rest =>
    cases u with
    | edge d => exact .inl ⟨d, rest, rfl, by simpa [nextTurn, ht, runTurn, decodePulse] using h⟩
    | engine =>
      refine .inr (.inr (.inr ⟨rest, .inl rfl, ?_⟩))
      simp only [nextTurn, ht, runTurn] at h
      exact (Host.Outcome.next.inj h).symm
    | host w =>
      simp only [nextTurn, ht, runTurn, runCommand] at h
      cases hd : decodeCommand w with
      | error e =>
        rw [hd] at h
        exact .inr (.inl ⟨w, rest, e, rfl, hd, (Host.Outcome.next.inj h).symm⟩)
      | ok i =>
        rw [hd] at h
        exact .inr (.inr (.inl ⟨w, rest, i, rfl, hd, h⟩))

/-- What HOST's `DEC_STEP` can do (R190). -/
theorem execDecStep_cases (s : State) :
    (s.decEn = true ∧ exec .decStep s = .next (s.respond .busy 0)) ∨
    (s.decEn = false ∧ s.pq.cnt = 0 ∧ exec .decStep s = .next (s.respond .empty 0)) ∨
    (s.decEn = false ∧ s.pq.cnt ≠ 0 ∧ ∃ u w, runDecStep s = some (u, w) ∧
      exec .decStep s = .next (u.respond .ok w)) := by
  by_cases hb : s.decEn = true
  · exact .inl ⟨hb, by simp [exec, execDecStep, hb, raise]⟩
  · rcases runDecStep_cases s with ⟨hc, h⟩ | ⟨hc, d, q, -, h⟩
    · exact .inr (.inl ⟨by simpa using hb, hc, by simp [exec, execDecStep, hb, h, raise]⟩)
    · exact .inr (.inr ⟨by simpa using hb, hc, _, _, h, by simp [exec, execDecStep, hb, h, done]⟩)

/-- What HOST's `PARSE_STEP` can do (R252). -/
theorem execParseStep_cases (s : State) :
    (s.parEn = true ∧ exec .parseStep s = .next (s.respond .busy 0)) ∨
    (s.parEn = false ∧ s.bq.cnt = 0 ∧ exec .parseStep s = .next (s.respond .empty 0)) ∨
    (s.parEn = false ∧ s.bq.cnt ≠ 0 ∧ ∃ u w, runParseStep s = some (u, w) ∧
      exec .parseStep s = .next (u.respond .ok w)) := by
  by_cases hb : s.parEn = true
  · exact .inl ⟨hb, by simp [exec, execParseStep, hb, raise]⟩
  · rcases runParseStep_cases s with ⟨hc, h⟩ | ⟨hc, y, q, -, h⟩
    · exact .inr (.inl ⟨by simpa using hb, hc, by simp [exec, execParseStep, hb, h, raise]⟩)
    · exact .inr (.inr ⟨by simpa using hb, hc, _, _, h, by simp [exec, execParseStep, hb, h, done]⟩)

/-- What `POP_SYMBOL` can do (R193). -/
theorem execPopSymbol_cases (s : State) :
    (s.parEn = true ∧ exec .popSymbol s = .next (s.respond .busy 0)) ∨
    (s.parEn = false ∧ s.bq.cnt = 0 ∧ exec .popSymbol s = .next (s.respond .empty 0)) ∨
    (s.parEn = false ∧ s.bq.cnt ≠ 0 ∧ ∃ y q, s.bq.remove s.cfg.bqCap (Config.bqPowerOn s.power) = some (y, q) ∧
      exec .popSymbol s = .next (({ s with bq := q } : State).respond .ok ((symbolCode y).setWidth 32))) := by
  by_cases hb : s.parEn = true
  · exact .inl ⟨hb, by simp [exec, execPopSymbol, hb, raise]⟩
  · rcases popBq_cases s with ⟨hc, h⟩ | ⟨hc, y, q, hr, h⟩
    · exact .inr (.inl ⟨by simpa using hb, hc, by simp [exec, execPopSymbol, hb, h, raise]⟩)
    · exact .inr (.inr ⟨by simpa using hb, hc, _, _, hr, by simp [exec, execPopSymbol, hb, h, done]⟩)

/-- What `FEED_BIT` can do (R254). -/
theorem execFeedBit_cases (b : BitVec 1) (s : State) :
    (s.parEn = true ∧ exec (.feedBit b) s = .next (s.respond .busy 0)) ∨
    (s.parEn = false ∧ exec (.feedBit b) s = .next ((deliver (symbolOfBit b) s).1.respond .ok
      (parseResult (symbolOfBit b) (deliver (symbolOfBit b) s).1 (deliver (symbolOfBit b) s).2))) := by
  by_cases hb : s.parEn = true
  · exact .inl ⟨hb, by simp [exec, execFeedBit, hb, raise]⟩
  · exact .inr ⟨by simpa using hb, by simp [exec, execFeedBit, hb, done]⟩

/-- What `PUSH_PULSE` can do (R155). -/
theorem execPushPulse_cases (d : Pulse) (s : State) :
    (s.edgeEn = false ∧ exec (.pushPulse d) s = .next s) ∨
    (s.edgeEn = true ∧ s.pq.cnt.toNat = s.cfg.pqCap ∧ exec (.pushPulse d) s = .next s.recordPqOvf) ∨
    (s.edgeEn = true ∧ ∃ q, s.pq.insert s.cfg.pqCap d = some q ∧
      exec (.pushPulse d) s = .next { s with pq := q }) := by
  by_cases hb : s.edgeEn = true
  · rcases pushPq_cases s d with ⟨q, hi, h⟩ | ⟨hc, h⟩
    · exact .inr (.inr ⟨hb, q, hi, by simp [exec, execPushPulse, hb, h]⟩)
    · exact .inr (.inl ⟨hb, hc, by simp [exec, execPushPulse, hb, h]⟩)
  · exact .inl ⟨by simpa using hb, by simp [exec, execPushPulse, hb]⟩

/-- What `REG_ADD` can do (R284). -/
theorem execRegAdd_cases (f : BitVec 5) (l c : Octet) (s : State) :
    (s.parEn = true ∧ exec (.regAdd f l c) s = .next (s.respond .busy 0)) ∨
    (s.parEn = false ∧ ¬ (f.toNat ≤ s.cfg.maxFields ∧ s.cfg.minLenAll ≤ l.toNat) ∧
      exec (.regAdd f l c) s = .next (s.respond .badarg 0)) ∨
    (s.parEn = false ∧ (f.toNat ≤ s.cfg.maxFields ∧ s.cfg.minLenAll ≤ l.toNat) ∧
      s.regCount.toNat = s.cfg.regCap ∧ exec (.regAdd f l c) s = .next (s.respond .full 0)) ∨
    (s.parEn = false ∧ (f.toNat ≤ s.cfg.maxFields ∧ s.cfg.minLenAll ≤ l.toNat) ∧
      s.regCount.toNat ≠ s.cfg.regCap ∧
      exec (.regAdd f l c) s = .next (({ s with
        reg := Cells.write s.reg s.regCount.toNat (stagedDescriptor s f l c), regCount := s.regCount + 1 } :
          State).respond .ok (s.regCount.setWidth 32))) := by
  by_cases hb : s.parEn = true
  · exact .inl ⟨hb, by simp [exec, execRegAdd, hb, raise]⟩
  · have hb' : s.parEn = false := by simpa using hb
    by_cases hr : f.toNat ≤ s.cfg.maxFields ∧ s.cfg.minLenAll ≤ l.toNat
    · by_cases hf : s.regCount.toNat = s.cfg.regCap
      · exact .inr (.inr (.inl ⟨hb', hr, hf, by simp [exec, execRegAdd, hb, descriptorInRange, hr, hf, raise]⟩))
      · exact .inr (.inr (.inr ⟨hb', hr, hf, by simp [exec, execRegAdd, hb, descriptorInRange, hr, hf, done]⟩))
    · exact .inr (.inl ⟨hb', hr, by simp only [exec, execRegAdd, hb, descriptorInRange, hr, raise]; simp⟩)

end Sys2Proof.Machine
end

