-- ==== Sys2Proof/Laws/PerInstr.lean ====
section
/-! SUPPORT. Statements for all operations, made one operation at a time. -/

namespace Sys2Proof.Laws.TableRow

/-- The word of an operation selects the operation's own row of the opcode map R114, whatever its fields hold: the
reserved bits of R112 are 0 and the opcode is the row's. -/
def Statement (i : Instr) : Prop :=
  ∃ r, opcodeTable[i.opcode]? = some r ∧ encode i &&& r.mask = r.pat

/-- A word whose masked bits all agree with a pattern selects it. -/
theorem selects_of_bits {w mask pat : Word}
    (h : ∀ j : Fin 32, (w.getLsbD j && mask.getLsbD j) = pat.getLsbD j) : w &&& mask = pat := by
  apply BitVec.eq_of_getLsbD_eq
  intro j hj
  rw [BitVec.getLsbD_and]
  exact h ⟨j, hj⟩

theorem nop : Statement .nop := ⟨_, rfl, by decide⟩

theorem pushPulse (d : Pulse) : Statement (.pushPulse d) := by
  refine ⟨_, rfl, selects_of_bits fun j => ?_⟩
  simp only [encode, @BitVec.getLsbD_append 8 24]
  fin_cases j <;> simp

theorem decStep : Statement .decStep := ⟨_, rfl, by decide⟩

theorem parseStep : Statement .parseStep := ⟨_, rfl, by decide⟩

theorem popSymbol : Statement .popSymbol := ⟨_, rfl, by decide⟩

theorem feedBit (b : BitVec 1) : Statement (.feedBit b) := by
  refine ⟨_, rfl, selects_of_bits fun j => ?_⟩
  simp only [encode, @BitVec.getLsbD_append 31 1, @BitVec.getLsbD_append 8 23]
  fin_cases j <;> simp

theorem reset (m : BitVec 2) : Statement (.reset m) := by
  refine ⟨_, rfl, selects_of_bits fun j => ?_⟩
  simp only [encode, @BitVec.getLsbD_append 30 2, @BitVec.getLsbD_append 8 22]
  fin_cases j <;> simp

theorem wrCtrl (c : BitVec 4) : Statement (.wrCtrl c) := by
  refine ⟨_, rfl, selects_of_bits fun j => ?_⟩
  simp only [encode, @BitVec.getLsbD_append 28 4, @BitVec.getLsbD_append 8 20]
  fin_cases j <;> simp

theorem rdCsr (n : Octet) : Statement (.rdCsr n) := by
  refine ⟨_, rfl, selects_of_bits fun j => ?_⟩
  simp only [encode, @BitVec.getLsbD_append 24 8, @BitVec.getLsbD_append 8 16]
  fin_cases j <;> simp

theorem rdMsg (i : Octet) : Statement (.rdMsg i) := by
  refine ⟨_, rfl, selects_of_bits fun j => ?_⟩
  simp only [encode, @BitVec.getLsbD_append 24 8, @BitVec.getLsbD_append 8 16]
  fin_cases j <;> simp

theorem loadIdLo (h : BitVec 16) : Statement (.loadIdLo h) := by
  refine ⟨_, rfl, selects_of_bits fun j => ?_⟩
  simp only [encode, @BitVec.getLsbD_append 16 16, @BitVec.getLsbD_append 8 8]
  fin_cases j <;> simp

theorem loadIdHi (h : BitVec 16) : Statement (.loadIdHi h) := by
  refine ⟨_, rfl, selects_of_bits fun j => ?_⟩
  simp only [encode, @BitVec.getLsbD_append 16 16, @BitVec.getLsbD_append 8 8]
  fin_cases j <;> simp

theorem setField (k : BitVec 4) (s e : Octet) : Statement (.setField k s e) := by
  refine ⟨_, rfl, selects_of_bits fun j => ?_⟩
  simp only [encode, @BitVec.getLsbD_append 24 8, @BitVec.getLsbD_append 16 8,
    @BitVec.getLsbD_append 12 4, @BitVec.getLsbD_append 8 4]
  fin_cases j <;> simp

theorem regAdd (f : BitVec 5) (l c : Octet) : Statement (.regAdd f l c) := by
  refine ⟨_, rfl, selects_of_bits fun j => ?_⟩
  simp only [encode, @BitVec.getLsbD_append 24 8, @BitVec.getLsbD_append 16 8,
    @BitVec.getLsbD_append 11 5, @BitVec.getLsbD_append 8 3]
  fin_cases j <;> simp

theorem rdSlot (s : BitVec 4) (w : BitVec 5) : Statement (.rdSlot s w) := by
  refine ⟨_, rfl, selects_of_bits fun j => ?_⟩
  simp only [encode, @BitVec.getLsbD_append 27 5, @BitVec.getLsbD_append 16 11,
    @BitVec.getLsbD_append 12 4, @BitVec.getLsbD_append 8 4]
  fin_cases j <;> simp

theorem clrCnt : Statement .clrCnt := ⟨_, rfl, by decide⟩

theorem lookup (c : Octet) : Statement (.lookup c) := by
  refine ⟨_, rfl, selects_of_bits fun j => ?_⟩
  simp only [encode, @BitVec.getLsbD_append 24 8, @BitVec.getLsbD_append 8 16]
  fin_cases j <;> simp

end Sys2Proof.Laws.TableRow
end

