-- ==== Sys2Proof/Tests/Slice0.lean ====
section
/-! SUPPORT. The model's own tests. Expected values are those of 95_test_vectors.md (its ids stand in the docstrings) and
of 30_encoding.md R114, R123. The last part gives, for each statement with hypotheses, values that meet them. -/

namespace Sys2Proof.Tests

open Sys2Proof.Machine

/-! ## Well-formedness: each check refuses an ill-formed term -/

theorem test_edge_refuses_command : Instr.wellFormed .edge .nop = false := by decide
theorem test_engine_refuses_pop : Instr.wellFormed .engine .popSymbol = false := by decide
theorem test_host_refuses_push : Instr.wellFormed .host (.pushPulse 500) = false := by decide
theorem test_add_sensor_refuses_17_pairs :
    Pseudo.wellFormed (.addSensor 0x2D1 1 10 (List.replicate 17 ⟨0, 0⟩)) = false := by decide

/-! ## Decoding: words written out from R114's patterns -/

theorem test_decode_nop : decodeCommand 0b00000000_00000000_00000000_00000000 = .ok .nop := by decide
theorem test_decode_push_pulse : decodeWord 0b00000001_00000000_00000001_11110100 = .ok (.pushPulse 500) := by decide
theorem test_decode_dec_step : decodeCommand 0b00000010_00000000_00000000_00000000 = .ok .decStep := by decide
theorem test_decode_parse_step : decodeCommand 0b00000011_00000000_00000000_00000000 = .ok .parseStep := by decide
theorem test_decode_pop_symbol : decodeCommand 0b00000100_00000000_00000000_00000000 = .ok .popSymbol := by decide
theorem test_decode_feed_bit : decodeCommand 0b00000101_00000000_00000000_00000001 = .ok (.feedBit 1) := by decide
theorem test_decode_reset : decodeCommand 0b00000110_00000000_00000000_00000010 = .ok (.reset 2) := by decide
theorem test_decode_wr_ctrl : decodeCommand 0b00000111_00000000_00000000_00001111 = .ok (.wrCtrl 0xF) := by decide
theorem test_decode_rd_csr : decodeCommand 0b00001000_00000000_00000000_00010101 = .ok (.rdCsr 0x15) := by decide
theorem test_decode_rd_msg : decodeCommand 0b00001001_00000000_00000000_00000001 = .ok (.rdMsg 1) := by decide
theorem test_decode_load_id_lo : decodeCommand 0b00001010_00000000_00000010_11010001 = .ok (.loadIdLo 0x02D1) := by decide
theorem test_decode_load_id_hi : decodeCommand 0b00001011_00000000_00010010_00110100 = .ok (.loadIdHi 0x1234) := by decide
theorem test_decode_set_field : decodeCommand 0b00001100_00000000_00000101_00000111 = .ok (.setField 0 5 7) := by decide
theorem test_decode_reg_add : decodeCommand 0b00001101_00000001_00001010_00000001 = .ok (.regAdd 1 10 1) := by decide
theorem test_decode_rd_slot : decodeCommand 0b00001110_00000011_00000000_00000010 = .ok (.rdSlot 3 2) := by decide
theorem test_decode_clr_cnt : decodeCommand 0b00001111_00000000_00000000_00000000 = .ok .clrCnt := by decide
theorem test_decode_lookup : decodeCommand 0b00010000_00000000_00000000_00000001 = .ok (.lookup 1) := by decide
/-- X3: opcode 0x01 on the command port. -/
theorem test_decode_push_on_command_port : decodeCommand 0x01000010 = .error .pulsePortOnly := by decide
/-- X4: reserved operand bits, one of them between two fields. -/
theorem test_decode_reserved_between : decodeCommand 0x0E000100 = .error .reservedBit := by decide
/-- X5: the highest reserved bit of `REG_ADD`. -/
theorem test_decode_reserved_high : decodeCommand 0x0D800000 = .error .reservedBit := by decide
theorem test_decode_first_reserved_opcode : decodeCommand 0x11000000 = .error .reservedOpcode := by decide
theorem test_decode_table_word : decodeTableWord 32 0x0C000507 = some (.setField 0 5 7) := by decide
theorem test_rows_disjoint :
    opcodeTable.Pairwise (fun a b => a.pat &&& (a.mask &&& b.mask) ≠ b.pat &&& (a.mask &&& b.mask)) := by decide

/-! ## The assembler (R121) and the pseudo-operations (R122) -/

theorem test_assemble_line : assembleLine "SET_FIELD 0, 5, 0x7 ; c".toList = some [.setField 0 5 7] := by decide
theorem test_assemble_misfit : assembleLine "WR_CTRL 16".toList = none := by decide
/-- P1: the boot sequence as one pseudo-operation. -/
theorem test_expand_add_sensor : (expand (.addSensor 0x2D1 1 10 [⟨5, 7⟩])).map encode =
    [0x0A0002D1, 0x0B000000, 0x0C000507, 0x0D010A01] := by decide
theorem test_expand_enable : (expand (.enable .v21)).map encode = [0x0700000F] := by decide

/-! ## One step on small states -/

/-- The next state of an outcome, or the given one. -/
def after (o : Host.Outcome State Fault Refusal) (s : State) : State :=
  match o with
  | .next t => t
  | .fault _ => s
  | .refused _ => s

/-- The response an operation leaves. -/
def answer (i : Instr) (s : State) : Option Response := (after (exec i s) s).rsp

/-- Power-on with the defaults and a value of `CTRL`. -/
def base (c : BitVec 4) : State := { State.reset with ctrl := c }

/-- The sensor of P1. -/
def sensor : Descriptor := ⟨0x2D1, 1, 10, 1, [⟨5, 7⟩, ⟨0, 0⟩, ⟨0, 0⟩, ⟨0, 0⟩, ⟨0, 0⟩, ⟨0, 0⟩, ⟨0, 0⟩, ⟨0, 0⟩]⟩

/-- P1 up to its fourth command. -/
def booted (c : BitVec 4) : State :=
  { base c with reg := [(0, sensor)], regCount := 1, idStage := 0x2D1,
                fstage := [⟨5, 7⟩, ⟨0, 0⟩, ⟨0, 0⟩, ⟨0, 0⟩, ⟨0, 0⟩, ⟨0, 0⟩, ⟨0, 0⟩, ⟨0, 0⟩] }

/-- One pulse queued, and a decoder. -/
def pulsed (d : Pulse) (dec : Decoder) : State := { base 1 with pq := ⟨[(0, d)], 1, 0, 1⟩, dec := dec }

/-- Symbols queued. -/
def symboled (y z : Symbol) : State := { booted 0 with bq := ⟨[(0, y), (1, z)], 2, 0, 2⟩ }

/-- P3 after its first 27 bits: four nibbles stored, three bits of the channel nibble in. -/
def identifying : State :=
  { booted 0 with msg := [(0, 1), (1, 0xD), (2, 2), (3, 0)], par := ⟨.ident, 0x2, 3, 4, 0, false, 0, 0⟩ }

/-- P3 after its first 47 bits, its last nibble's high bit being given. -/
def finishing (nib : Nibble) : State :=
  { booted 0 with msg := [(0, 1), (1, 0xD), (2, 2), (3, 0), (4, 1), (5, 3), (6, 5), (7, 7), (8, 0)],
                  par := ⟨.body, nib, 3, 9, 0, true, 0, 10⟩ }

/-- P3's end. -/
def held : State :=
  { booted 0 with
    msg := [(0, 1), (1, 0xD), (2, 2), (3, 0), (4, 1), (5, 3), (6, 5), (7, 7), (8, 0), (9, 2)],
    par := ⟨.complete, 2, 0, 10, 0, true, 0, 10⟩, res := ⟨true, true, 0x20, 0x20, 0, 10⟩,
    cnt := { Counters.zero with cksOk := 1 } }

/-- X10. -/
theorem test_nop : answer .nop (base 0) = some ⟨.ok, 0⟩ := by decide

/-- R155's example. -/
theorem test_push_pulse : (after (exec (.pushPulse 500) (base 1)) (base 1)).pq = ⟨[(0, 500)], 1, 0, 1⟩ := by decide
/-- Q1: a full `PQ` of capacity 2 keeps its pulses. -/
theorem test_push_pulse_full :
    let s : State := { base 1 with cfg := { Params.standard with pqCap := 2 }, pq := ⟨[(0, 100), (1, 200)], 0, 0, 2⟩ }
    let t := after (exec (.pushPulse 300) s) s
    t.pq = s.pq ∧ t.pqOvf = true ∧ t.cnt.pqOvf = 1 ∧ statusWord t = 0x16 := by decide

/-- DC3: 50 is short, and takes the long action while `FIRST = 1`. -/
theorem test_dec_step_first : answer .decStep (pulsed 50 ⟨0, 0, true⟩) = some ⟨.ok, 0x00003243⟩ := by decide
/-- DC15: an out-of-range pulse at mid-bit. -/
theorem test_dec_step_out :
    let s := pulsed 49 ⟨1, 1, false⟩
    let t := after (exec .decStep s) s
    t.rsp = some ⟨.ok, 0x00003125⟩ ∧ t.dec = ⟨0, 0, true⟩ ∧ t.cnt.resync = 1 ∧ t.bq.buf = [(0, .resync)] := by decide

/-- P-S2: `Resync` ends an acquisition. -/
theorem test_parse_step_resync :
    let s : State := { symboled .resync .one with par := ⟨.ident, 0xA, 0, 0, 0, false, 0, 0⟩ }
    let t := after (exec .parseStep s) s
    t.rsp = some ⟨.ok, 0x020⟩ ∧ parStateWord t = 0 := by decide
/-- R252's example. -/
theorem test_parse_step_sync :
    let s : State := { symboled .one .zero with par := ⟨.sync, 0x5, 0, 0, 0, false, 0, 0⟩ }
    answer .parseStep s = some ⟨.ok, 0x114⟩ := by decide

/-- DC18. -/
theorem test_pop_symbol :
    let s := symboled .one .zero
    let t := after (exec .popSymbol s) s
    t.rsp = some ⟨.ok, 1⟩ ∧ t.symbols = [.zero] := by decide
/-- DC19. -/
theorem test_pop_symbol_busy : answer .popSymbol (base 4) = some ⟨.busy, 0⟩ := by decide

/-- P3, bit 27: the lookup matches slot 0. -/
theorem test_feed_bit_identifies :
    let t := after (exec (.feedBit 0) identifying) identifying
    t.rsp = some ⟨.ok, 0x204⟩ ∧ parStateWord t = 0x0A020506 := by decide
/-- P3, bit 47: the checksum is good. -/
theorem test_feed_bit_completes :
    let t := after (exec (.feedBit 0) (finishing 0x4)) (finishing 0x4)
    t.rsp = some ⟨.ok, 0x307⟩ ∧ resultWord t = 0x0A002020 ∧ statusWord t = 0x3C5 := by decide

/-- P-D2: the latch words stay. -/
theorem test_reset :
    let t := after (exec (.reset 2) held) held
    statusWord t = 0x005 ∧ resultWord t = 0x0A002020 := by decide
/-- DC20. -/
theorem test_reset_decoder : decStateWord (after (exec (.reset 1) (pulsed 0 ⟨0, 1, false⟩)) State.reset) = 4 := by decide

/-- X9. -/
theorem test_wr_ctrl :
    let t := after (exec (.wrCtrl 0xF) { identifying with ctrl := 7 }) State.reset
    t.ctrl = 0xF ∧ parStateWord t = 0 := by decide

/-- X8. -/
theorem test_rd_csr : answer (.rdCsr 0x1E) (base 0) = some ⟨.ok, 0x00040408⟩ := by decide
/-- X7. -/
theorem test_rd_csr_reserved : answer (.rdCsr 0x0B) (base 0) = some ⟨.badarg, 0⟩ := by decide

/-- P3's reading of the result. -/
theorem test_rd_msg : answer (.rdMsg 1) held = some ⟨.ok, 0xD⟩ := by decide
/-- X7. -/
theorem test_rd_msg_range : answer (.rdMsg 0x20) held = some ⟨.badarg, 0⟩ := by decide

/-- R280's example. -/
theorem test_load_id_lo :
    answer (.loadIdLo 0x02D1) { base 0 with idStage := 0x12340000 } = some ⟨.ok, 0x123402D1⟩ := by decide
/-- G2. -/
theorem test_load_id_hi :
    answer (.loadIdHi 0x1234) { base 0 with idStage := 0x2D1 } = some ⟨.ok, 0x123402D1⟩ := by decide

/-- R282's example. -/
theorem test_set_field : (after (exec (.setField 0 5 7) (base 0)) (base 0)).fstageAt 0 = ⟨5, 7⟩ := by decide
/-- G9. -/
theorem test_set_field_range : answer (.setField 8 0 0) (base 0) = some ⟨.badarg, 0⟩ := by decide

/-- R284's example. -/
theorem test_reg_add :
    let s : State := { booted 0 with reg := [], regCount := 0 }
    let t := after (exec (.regAdd 1 10 1) s) s
    t.reg = [(0, sensor)] ∧ t.rsp = some ⟨.ok, 0⟩ := by decide
/-- G6: `BUSY` is checked before `BADARG`. -/
theorem test_reg_add_busy_first : answer (.regAdd 0 0 1) (base 4) = some ⟨.busy, 0⟩ := by decide

/-- G10. -/
theorem test_rd_slot : answer (.rdSlot 0 2) (booted 7) = some ⟨.ok, 0x00000507⟩ := by decide
/-- G10. -/
theorem test_rd_slot_range : answer (.rdSlot 0 10) (booted 7) = some ⟨.badarg, 0⟩ := by decide

/-- R332's example. -/
theorem test_clr_cnt :
    let s : State := { base 0 with pqOvf := true, cnt := { Counters.zero with cksFail := 3, pqOvf := 1 } }
    let t := after (exec .clrCnt s) s
    t.pqOvf = false ∧ t.cnt = Counters.zero := by decide

/-- G10. -/
theorem test_lookup : answer (.lookup 1) (booted 0) = some ⟨.ok, 0x100⟩ := by decide
/-- G10. -/
theorem test_lookup_missing : answer (.lookup 2) (booted 0) = some ⟨.ok, 0⟩ := by decide

/-- R340: ENGINE parses before it decodes. -/
theorem test_engine_parses_first :
    let s : State := { symboled .zero .one with ctrl := 6, pq := ⟨[(0, 500)], 1, 0, 1⟩ }
    (engineStep s).bq.cnt = 1 ∧ (engineStep s).pq.cnt = 1 ∧ (engineStep s).rsp = none := by decide

/-- A placed word runs on the very next step. -/
theorem test_with_fetch_word :
    (after (step (State.reset.withFetchWord 32 0x0A0002D1)) State.reset).idStage = 0x2D1 := by decide

/-- R9: an instance without room in its queues never steps. -/
theorem test_invalid_instance_stops :
    step { base 0 with cfg := { Params.standard with pqCap := 0 } } = .fault .invalidInstance := by rfl

/-! ## Values that meet the hypotheses of the statements, each clause at a boundary of its range -/

/-- The invariant of a concrete state, from what `decide` can check and the parser's phase. -/
theorem inv_of {s : State}
    (h : (s.cfg.valid ∧ Queue.wf s.cfg.pqCap s.pq ∧ Queue.wf s.cfg.bqCap s.bq ∧ Registry.wf s ∧
        s.fstage.length = s.cfg.maxFields) ∧
      (s.par.idx.toNat ≤ s.cfg.msgCap ∧ Cells.wf s.cfg.msgCap s.msg ∧
        (∀ i < s.par.idx.toNat, (Cells.find s.msg i).isSome) ∧ (s.proto = .v3 → s.par.bitpar = 0)) ∧ Events.wf s)
    (p : phaseWf s) : Inv s :=
  ⟨h.1.1, h.1.2.1, h.1.2.2.1, h.1.2.2.2.1, h.1.2.2.2.2, ⟨h.2.1.1, h.2.1.2.1, h.2.1.2.2.1, h.2.1.2.2.2, p⟩, h.2.2⟩

theorem phase_initial {s : State} (h : s.par = Parser.initial) : phaseWf s := by
  simp [phaseWf, h, Parser.initial, syncNibble, nothingMatched]

/-- One pulse queued behind the booted state. -/
def queued (c : BitVec 4) (d : Pulse) : State := { booted c with pq := ⟨[(0, d)], 1, 0, 1⟩ }

/-- A full `PQ` of capacity 1. -/
def full : State := { base 1 with cfg := { Params.standard with pqCap := 1 }, pq := ⟨[(0, 500)], 0, 0, 1⟩ }

/-- A turn placed before a state. -/
def taking (t : Turn) (s : State) : State := { s with turns := [t] }

/-- A state with V21 selected and nothing enabled. -/
def under21 (s : State) : State := { s with ctrl := 8 }

/-- The nibbles of P3. -/
def p3 : List Nibble := [1, 0xD, 2, 0, 1, 3, 5, 7, 0, 2]

theorem inv_booted : Inv (booted 0) := inv_of (by decide) (phase_initial rfl)
theorem inv_edge : Inv (booted 1) := inv_of (by decide) (phase_initial rfl)
theorem inv_v21 : Inv (booted 8) := inv_of (by decide) (phase_initial rfl)
theorem inv_queued_49 : Inv (queued 0 49) := inv_of (by decide) (phase_initial rfl)
theorem inv_queued_50 : Inv (queued 0 50) := inv_of (by decide) (phase_initial rfl)
theorem inv_queued_1400 : Inv (queued 0 1400) := inv_of (by decide) (phase_initial rfl)
theorem inv_engine : Inv (queued 6 500) := inv_of (by decide) (phase_initial rfl)
theorem inv_symboled_zero : Inv (symboled .zero .zero) := inv_of (by decide) (phase_initial rfl)
theorem inv_symboled_one : Inv (symboled .one .zero) := inv_of (by decide) (phase_initial rfl)
theorem inv_symboled_resync : Inv (symboled .resync .zero) := inv_of (by decide) (phase_initial rfl)
theorem inv_full : Inv full := inv_of (by decide) (phase_initial rfl)
theorem inv_identifying : Inv identifying := inv_of (by decide) (by decide : _ ∧ nothingMatched identifying)
theorem inv_finishing : Inv (finishing 0x4) :=
  inv_of (by decide) (by decide : matchRecorded (finishing 0x4) ∧ _ ∧ _)
theorem inv_held : Inv held := inv_of (by decide) (by decide : matchRecorded held ∧ _ ∧ _ ∧ _ ∧ _ ∧ _ ∧ _ ∧ _)

theorem witness_EncodeThenDecode : Instr.wellFormed .host .nop = true ∧ Instr.wellFormed .host (.lookup 0xFF) = true := by
  decide
theorem witness_DecodeThenEncode : decodeWord 0x10000000 = .ok (.lookup 0) ∧ decodeWord 0 = .ok .nop := by decide
theorem witness_CommandWordLegalIff :
    decodeCommand 0x100000FF = .ok (.lookup 0xFF) ∧ Instr.wellFormed .host (.lookup 0xFF) = true := by decide
theorem witness_IllegalWordAnsweredIllegal :
    State.reset.cfg.valid ∧ opcodeOf 0x01000010 = 0x01 ∧ 0x11 ≤ opcodeOf 0x11000000 ∧ 0x11 ≤ opcodeOf 0xFFFFFFFF ∧
    ((opcodeTable[opcodeOf 0x05000002]?).map fun r => decide (0x05000002 &&& r.mask ≠ r.pat)) = some true ∧
    (taking (.host 0x05000002) State.reset).turns = [.host 0x05000002] := by decide
theorem witness_StepRunsTurn :
    (taking (.host 0) State.reset).cfg.valid ∧ (taking (.host 0) State.reset).turns = .host 0 :: [] ∧
    decodeCommand 0 = .ok .nop ∧ (taking (.edge 0) State.reset).turns = .edge 0 :: [] ∧
    (taking .engine State.reset).turns = .engine :: [] ∧ State.reset.turns = [] := by decide
theorem witness_PlacedWordRunsNext : State.reset.cfg.valid := by decide
theorem witness_PowerOnValues : State.reset = State.powerOn Params.standard 0 := rfl
/-- Each capacity at its least or greatest value. -/
theorem witness_PowerOnSatisfiesInv :
    Params.valid ⟨1, 2, 3, 1, 255, 7, 1, 0, 1, 4, 4⟩ ∧
    Params.valid ⟨1, 2, 2 ^ 24 - 1, 255, 1, 255, 16, 16, 0, 252, 252⟩ := by decide
theorem witness_StepKeepsInvariant :
    Inv (queued 6 500) ∧ step (queued 6 500) = .next (engineStep (queued 6 500)) := ⟨inv_engine, rfl⟩
theorem witness_StepNeverStops : (queued 6 500).cfg.valid := by decide
theorem witness_InvalidInstanceRefused :
    instanceConstraints ⟨1, 2, 3, 255, 255, 255, 16, 16, 0, 252, 252⟩ ∧
    ¬ instanceConstraints { Params.standard with pqCap := 256 } ∧
    ¬ instanceConstraints { Params.standard with msgCap := 6 } := by decide
theorem witness_QueueInsertAppends :
    (Queue.wf 1 full.pq ∧ full.pq.cnt.toNat = 1) ∧
    (Queue.wf 255 (queued 0 5).pq ∧ (queued 0 5).pq.cnt.toNat < 255) := by decide
theorem witness_QueueRemoveTakesOldest :
    (Queue.wf 255 (booted 0).pq ∧ (booted 0).pq.cnt = 0) ∧ (Queue.wf 1 full.pq ∧ full.pq.cnt ≠ 0) := by decide
theorem witness_PushPulseQueues :
    Inv (booted 1) ∧ (booted 1).edgeEn = true ∧ (booted 1).pq.cnt.toNat < (booted 1).cfg.pqCap :=
  ⟨inv_edge, by decide⟩
theorem witness_PushPulseOverflowRecorded : full.edgeEn = true ∧ full.pq.cnt.toNat = full.cfg.pqCap := by decide
theorem witness_PushPulseMasked : (base 0xE).edgeEn = false := by decide
theorem witness_PulseWindow :
    Params.standard.tMin = 50 ∧ Params.standard.tSplit = 750 ∧ Params.standard.tMax = 1400 := by decide
theorem witness_DecStepOutOfRange :
    (Inv (queued 0 49) ∧ (queued 0 49).decEn = false ∧ (queued 0 49).pulses = 49 :: [] ∧
      classify (queued 0 49).cfg 49 = .out) ∧
    (Inv (queued 0 1400) ∧ (queued 0 1400).decEn = false ∧ (queued 0 1400).pulses = 1400 :: [] ∧
      classify (queued 0 1400).cfg 1400 = .out) :=
  ⟨⟨inv_queued_49, by decide⟩, inv_queued_1400, by decide⟩
/-- The first pulse is the long action whatever its class; the next dec values are those of the two actions. -/
theorem witness_DecStepInRange :
    (Inv (queued 0 50) ∧ (queued 0 50).decEn = false ∧ (queued 0 50).pulses = 50 :: [] ∧
      classify (queued 0 50).cfg 50 = .short ∧ (queued 0 50).dec.first = true) ∧
    (Inv { queued 0 749 with dec := ⟨1, 0, false⟩ } ∧ classify Params.standard 749 = .short ∧
      (State.pulses { queued 0 749 with dec := ⟨1, 0, false⟩ }) = 749 :: []) :=
  ⟨⟨inv_queued_50, by decide⟩, inv_of (by decide) (phase_initial rfl), by decide, rfl⟩
theorem witness_ManchesterRoundTrip :
    classify Params.standard 500 = .short ∧ classify Params.standard 1000 = .long ∧
    (let s : State := { base 0 with dec := ⟨1, 0, false⟩ }; s.dec.first = false ∧ s.dec.hc = 0) ∧
    (base 0).dec = ⟨(base 0).cfg.initBit, 0, true⟩ ∧ classify (base 0).cfg 50 ≠ .out := by decide
theorem witness_PopSymbolTakesOldest :
    (Inv (symboled .zero .zero) ∧ (symboled .zero .zero).parEn = false ∧
      (symboled .zero .zero).symbols = .zero :: [.zero]) ∧
    (Inv (symboled .resync .zero) ∧ (symboled .resync .zero).parEn = false ∧
      (symboled .resync .zero).symbols = .resync :: [.zero]) :=
  ⟨⟨inv_symboled_zero, by decide⟩, inv_symboled_resync, by decide⟩
theorem witness_NoBitLossUnderEngine :
    (queued 6 500).decEn = true ∧ (queued 6 500).parEn = true ∧
    step (queued 6 500) = .next (engineStep (queued 6 500)) := ⟨rfl, rfl, rfl⟩
/-- Under V3, and under V21 with `BITPAR = 0`, the state of the parser being the same. -/
theorem witness_SyncSearchSlides :
    let s : State := { base 0 with par := { Parser.initial with nib := 4 } }
    (s.parEn = false ∧ acceptedParity s 0 ∧ s.par.state = .sync ∧ nextNibble s 0 ≠ 0xA ∧ nextNibble s 1 = 0xA) ∧
    ((under21 s).parEn = false ∧ acceptedParity (under21 s) 1 ∧ (under21 s).par.state = .sync) := by decide
theorem witness_BitWithinNibble :
    let s : State := { identifying with par := { identifying.par with sub := 2 } }
    let u : State := { finishing 0 with par := { (finishing 0).par with sub := 0 } }
    (s.parEn = false ∧ acceptedParity s 0 ∧ s.par.sub ≠ 3 ∧ s.par.state = .ident) ∧
    (u.parEn = false ∧ acceptedParity u 0 ∧ u.par.sub ≠ 3 ∧ u.par.state = .body) ∧
    ((under21 u).parEn = false ∧ acceptedParity (under21 u) 1) := by decide
/-- The nibble before the last of `IDENT`, and the nibble before the last of `BODY`. -/
theorem witness_NibbleStored :
    let s : State := { identifying with par := { identifying.par with idx := 3 } }
    let u : State := { finishing 0 with par := { (finishing 0).par with idx := 8 } }
    (s.parEn = false ∧ acceptedParity s 0 ∧ s.par.sub = 3 ∧ s.par.idx.toNat < s.cfg.msgCap ∧ s.cfg.msgCap ≤ 255 ∧
      s.par.state = .ident ∧ s.par.idx.toNat + 1 ≠ s.cfg.idNib s.proto) ∧
    (u.parEn = false ∧ acceptedParity u 0 ∧ u.par.sub = 3 ∧ u.par.idx.toNat < u.cfg.msgCap ∧
      u.par.state = .body ∧ u.par.idx.toNat + 1 ≠ u.par.mlen.toNat) ∧
    ((under21 s).parEn = false ∧ acceptedParity (under21 s) 1 ∧
      (under21 s).par.idx.toNat + 1 ≠ (under21 s).cfg.idNib (under21 s).proto) := by decide
/-- P-B1: the 33rd nibble, of a sensor registered with length 40. -/
theorem witness_CapacityExceeded :
    let s : State := { finishing 0 with par := ⟨.body, 0, 3, 32, 0, true, 0, 40⟩ }
    (s.parEn = false ∧ acceptedParity s 0 ∧ s.par.sub = 3 ∧ s.par.state = .body ∧ s.cfg.msgCap ≤ s.par.idx.toNat) ∧
    ((under21 s).parEn = false ∧ acceptedParity (under21 s) 1) := by decide
theorem witness_DeviceIdPacking : (base 8).cfg.chIdx (base 8).proto = 4 := by decide
/-- Channel nibble 1 (bits 0, 1, 0 in, then a 0) is registered; with a 1 as its last bit the channel is 9, which is not. -/
theorem witness_IdentificationDecides :
    Inv identifying ∧ (identifying.parEn = false ∧ acceptedParity identifying 0 ∧ identifying.par.sub = 3 ∧
      identifying.par.state = .ident ∧ identifying.par.idx.toNat + 1 = identifying.cfg.idNib identifying.proto) ∧
    (let t := after (exec (.feedBit 0) identifying) identifying; firstMatch identifying (deviceId t) (channel t) 0) ∧
    (let t := after (exec (.feedBit 1) identifying) identifying; noMatch identifying (deviceId t) (channel t)) :=
  ⟨inv_identifying, by decide, by decide, by decide⟩
/-- The same under V21, where an unknown sensor leaves `BITPAR = 1`. -/
theorem witness_IdentificationDecides_v21 :
    let s := under21 identifying
    Inv s ∧ (s.parEn = false ∧ acceptedParity s 1 ∧ s.par.sub = 3 ∧ s.par.state = .ident ∧
      s.par.idx.toNat + 1 = s.cfg.idNib s.proto) ∧
    (let t := after (exec (.feedBit 0) s) s; firstMatch s (deviceId t) (channel t) 0) ∧
    (let t := after (exec (.feedBit 1) s) s; noMatch s (deviceId t) (channel t)) :=
  ⟨inv_of (by decide) (by decide : _ ∧ nothingMatched (under21 identifying)), by decide, by decide, by decide⟩
theorem witness_CompletionJudged :
    Inv (finishing 0x4) ∧ ((finishing 0x4).parEn = false ∧ acceptedParity (finishing 0x4) 0 ∧
      (finishing 0x4).par.sub = 3 ∧
      (finishing 0x4).par.state = .body ∧ (finishing 0x4).par.idx.toNat + 1 = (finishing 0x4).par.mlen.toNat ∧
      (finishing 0x4).par.idx.toNat < (finishing 0x4).cfg.msgCap) ∧
    (let t := after (exec (.feedBit 0) (finishing 0x4)) (finishing 0x4); t.res.computed = t.res.received) ∧
    (let t := after (exec (.feedBit 1) (finishing 0x4)) (finishing 0x4); t.res.computed ≠ t.res.received) :=
  ⟨inv_finishing, by decide, by decide, by decide⟩
/-- The same under V21. -/
theorem witness_CompletionJudged_v21 :
    let s := under21 (finishing 0x4)
    Inv s ∧ (s.parEn = false ∧ acceptedParity s 1 ∧ s.par.sub = 3 ∧ s.par.state = .body ∧
      s.par.idx.toNat + 1 = s.par.mlen.toNat ∧ s.par.idx.toNat < s.cfg.msgCap) ∧
    (let t := after (exec (.feedBit 0) s) s; t.res.computed = t.res.received) ∧
    (let t := after (exec (.feedBit 1) s) s; t.res.computed ≠ t.res.received) :=
  ⟨inv_of (by decide) (by decide : matchRecorded (under21 (finishing 0x4)) ∧ _ ∧ _), by decide, by decide, by decide⟩
theorem witness_CompleteDiscards :
    Inv held ∧ held.parEn = false ∧ held.par.state = .complete ∧
    (let s : State := { held with bq := ⟨[(0, .resync)], 1, 0, 1⟩ }
     Inv s ∧ s.parEn = false ∧ s.par.state = .complete ∧ s.symbols = .resync :: []) :=
  ⟨inv_held, rfl, rfl,
   inv_of (by decide) (by decide : matchRecorded { held with bq := ⟨[(0, .resync)], 1, 0, 1⟩ } ∧ _ ∧ _ ∧ _ ∧ _ ∧ _ ∧ _ ∧ _),
   rfl, rfl, rfl⟩
theorem witness_ResyncResetsParser :
    Inv (symboled .resync .zero) ∧ (symboled .resync .zero).parEn = false ∧
    (symboled .resync .zero).par.state ≠ .complete ∧ (symboled .resync .zero).symbols = .resync :: [.zero] :=
  ⟨inv_symboled_resync, rfl, by decide, rfl⟩
theorem witness_ParseStepIsFeedBit :
    Inv (symboled .one .zero) ∧ (symboled .one .zero).parEn = false ∧ (symboled .one .zero).symbols = .one :: [.zero] :=
  ⟨inv_symboled_one, rfl, rfl⟩
theorem witness_BitFilter :
    ((booted 0).parEn = false ∧ (booted 0).par.state ≠ .complete ∧ (booted 0).proto = .v3) ∧
    ((booted 8).parEn = false ∧ (booted 8).par.state ≠ .complete ∧ (booted 8).proto = .v21 ∧ (booted 8).par.bitpar = 0) ∧
    (let s : State := { booted 8 with par := { Parser.initial with bitpar := 1 } }
     s.parEn = false ∧ s.par.state ≠ .complete ∧ s.proto = .v21 ∧ s.par.bitpar = 1) := by decide
theorem witness_BodyNeedsRegisteredSensor :
    let s := taking (.host 0x05000000) identifying
    let t := after (step s) s
    Inv s ∧ step s = .next t ∧ s.par.state ≠ .body ∧ t.par.state = .body :=
  ⟨inv_of (by decide) (by decide : _ ∧ nothingMatched identifying), rfl, by decide, rfl⟩
theorem witness_WholeMessageV3 :
    Inv (booted 0) ∧ (booted 0).parEn = false ∧ (booted 0).proto = .v3 ∧
    (booted 0).par = ⟨.sync, 0, 0, 0, 0, false, 0, 0⟩ ∧
    firstMatch (booted 0) (messageId p3 (booted 0).cfg.chIdxV3) ((p3.getD (booted 0).cfg.chIdxV3 0).setWidth 8) 0 ∧
    ((booted 0).regAt 0).len.toNat = p3.length ∧ p3.length ≤ (booted 0).cfg.msgCap ∧
    messageSum p3 ((booted 0).cfg.idStart .v3) = (messageReceived p3).toNat :=
  ⟨inv_booted, by decide⟩
/-- The corrupted message of P6: its low checksum nibble is 1. -/
theorem witness_WholeMessageV3_corrupted :
    let ns : List Nibble := [1, 0xD, 2, 0, 1, 3, 5, 7, 1, 2]
    firstMatch (booted 0) (messageId ns (booted 0).cfg.chIdxV3) ((ns.getD (booted 0).cfg.chIdxV3 0).setWidth 8) 0 ∧
    ((booted 0).regAt 0).len.toNat = ns.length ∧
    messageSum ns ((booted 0).cfg.idStart .v3) ≠ (messageReceived ns).toNat := by decide
theorem witness_WholeMessageV21 :
    Inv (booted 8) ∧ (booted 8).parEn = false ∧ (booted 8).proto = .v21 ∧
    (booted 8).par = ⟨.sync, 0, 0, 0, 0, false, 0, 0⟩ ∧
    firstMatch (booted 8) (messageId p3 (booted 8).cfg.chIdxV21) ((p3.getD (booted 8).cfg.chIdxV21 0).setWidth 8) 0 ∧
    ((booted 8).regAt 0).len.toNat = p3.length ∧ p3.length ≤ (booted 8).cfg.msgCap ∧
    messageSum p3 ((booted 8).cfg.idStart .v21) = (messageReceived p3).toNat :=
  ⟨inv_v21, by decide⟩
/-- The corrupted message of P6 under V21. -/
theorem witness_WholeMessageV21_corrupted :
    let ns : List Nibble := [1, 0xD, 2, 0, 1, 3, 5, 7, 1, 2]
    firstMatch (booted 8) (messageId ns (booted 8).cfg.chIdxV21) ((ns.getD (booted 8).cfg.chIdxV21 0).setWidth 8) 0 ∧
    ((booted 8).regAt 0).len.toNat = ns.length ∧
    messageSum ns ((booted 8).cfg.idStart .v21) ≠ (messageReceived ns).toNat := by decide
/-- A parser reset is not among the turns here: the turn resets the decoder. -/
theorem witness_CompletedMessageHeld :
    let s := taking (.host (encode (.reset 1))) held
    s.par.state = .complete ∧ step s = .next (after (step s) s) ∧ (1 : BitVec 2).getLsbD 1 = false ∧
    encode (.wrCtrl 0) ≠ encode (.reset 1) := ⟨rfl, rfl, rfl, by decide⟩
theorem witness_SetFieldStages :
    (base 0).fstage.length = (base 0).cfg.maxFields ∧ (base 0).cfg.maxFields ≤ (8 : BitVec 4).toNat ∧
    (7 : BitVec 4).toNat < (base 0).cfg.maxFields := by decide
theorem witness_RegAddAppends :
    (booted 0).parEn = false ∧ (8 : BitVec 5).toNat ≤ (booted 0).cfg.maxFields ∧
    (booted 0).cfg.minLenAll ≤ (7 : Octet).toNat ∧ (booted 0).regCount.toNat < (booted 0).cfg.regCap ∧
    (booted 0).cfg.regCap ≤ 16 := by decide
theorem witness_AddSensorRegisters :
    Inv (booted 0) ∧ (booted 0).parEn = false ∧ (List.replicate 8 (⟨5, 7⟩ : FieldPair)).length ≤ (booted 0).cfg.maxFields ∧
    (booted 0).cfg.minLenAll ≤ (7 : Octet).toNat ∧ (booted 0).regCount.toNat < (booted 0).cfg.regCap :=
  ⟨inv_booted, by decide⟩
theorem witness_RdSlotWords :
    ((booted 0).regCount.toNat ≤ (1 : BitVec 4).toNat ∨ (booted 0).cfg.maxFields + 2 ≤ (10 : BitVec 5).toNat) ∧
    (booted 0).regCount.toNat > (0 : BitVec 4).toNat ∧ (9 : BitVec 5).toNat < (booted 0).cfg.maxFields + 2 := by decide
theorem witness_LookupFirstMatch :
    Inv (booted 0) ∧ noMatch (booted 0) (booted 0).idStage 2 ∧ firstMatch (booted 0) (booted 0).idStage 1 0 :=
  ⟨inv_booted, by decide, by decide⟩
theorem witness_RegistryAppendOnly :
    let s := taking (.host 0x0D010A01) (booted 0)
    Inv s ∧ step s = .next (after (step s) s) ∧ 0 < s.regCount.toNat :=
  ⟨inv_of (by decide) (phase_initial rfl), rfl, by decide⟩
theorem witness_NopOnlyAnswers : opcodeOf 1 = 0 ∧ (1 : Word) ≠ 0 ∧ opcodeOf 0x00FFFFFF = 0 := by decide
theorem witness_WrCtrlWrites :
    (7 : BitVec 4).getLsbD 3 = (base 0).ctrl.getLsbD 3 ∧ (8 : BitVec 4).getLsbD 3 ≠ (base 0).ctrl.getLsbD 3 := by decide
theorem witness_RdCsrView :
    (0x0A : Octet) ≤ 0x0A ∧ (0x10 ≤ (0x17 : Octet) ∧ (0x17 : Octet) ≤ 0x17) ∧
    (0x1B ≤ (0x1F : Octet) ∧ (0x1F : Octet) ≤ 0x1F) ∧ (base 0).cfg.valid ∧
    ∀ n ∈ ([0x0B, 0x0F, 0x18, 0x1A, 0x20, 0xFF] : List Octet),
      ¬ (n ≤ 0x0A ∨ 0x10 ≤ n ∧ n ≤ 0x17 ∨ 0x1B ≤ n ∧ n ≤ 0x1F) := by decide
theorem witness_RdMsgReads :
    (31 : Octet).toNat < held.cfg.msgCap ∧ held.cfg.msgCap ≤ (32 : Octet).toNat ∧ ((0, 1) ∈ held.msg) ∧
    Cells.wf held.cfg.msgCap held.msg := by decide
theorem witness_ReadsChangeNothing :
    (∃ n, Instr.rdCsr 0x0B = .rdCsr n) ∧ (∃ n, Instr.rdMsg 0xFF = .rdMsg n) ∧
    (∃ k w, Instr.rdSlot 15 31 = .rdSlot k w) ∧ ∃ c, Instr.lookup 0 = .lookup c :=
  ⟨⟨_, rfl⟩, ⟨_, rfl⟩, ⟨_, _, rfl⟩, ⟨_, rfl⟩⟩
theorem witness_BusyExactlyWhenOwned :
    Instr.wellFormed .host .decStep = true ∧ answer .decStep (base 2) = some ⟨.busy, 0⟩ ∧
    Instr.wellFormed .host .nop = true ∧ answer .nop (base 0xF) = some ⟨.ok, 0⟩ := by decide
theorem witness_RefusalCauses :
    Instr.wellFormed .host .decStep = true ∧
    exec .decStep (base 0) = .next ((base 0).respond .empty 0) ∧ ((base 0).respond .empty 0).rsp = some ⟨.empty, 0⟩ :=
  ⟨rfl, rfl, rfl⟩
theorem witness_RefusalChangesNothing :
    runCommand 0x11000000 (base 0) = .next ((base 0).respond .illegal 0) ∧
    ((base 0).respond .illegal 0).rsp = some ⟨.illegal, 0⟩ ∧ Status.illegal ≠ .ok := ⟨rfl, rfl, by decide⟩
theorem witness_OneResponsePerCommand : exec (.pushPulse 0) (base 0) = .next (base 0) := rfl
theorem witness_EngineStepIsCommand :
    let s : State := { symboled .one .zero with ctrl := 4 }
    ((0 : BitVec 4).getLsbD 1 = false ∧ (0 : BitVec 4).getLsbD 2 = false ∧ (0 : BitVec 4).getLsbD 3 = s.ctrl.getLsbD 3) ∧
    (s.parEn = true ∧ s.bq.cnt ≠ 0) ∧
    (¬ ((queued 2 500).parEn = true ∧ (queued 2 500).bq.cnt ≠ 0) ∧ (queued 2 500).decEn = true ∧
      (queued 2 500).pq.cnt ≠ 0) ∧
    (¬ ((base 6).parEn = true ∧ (base 6).bq.cnt ≠ 0) ∧ ¬ ((base 6).decEn = true ∧ (base 6).pq.cnt ≠ 0)) := by decide
theorem witness_EngineDrains :
    Inv (queued 6 500) ∧ (queued 6 500).decEn = true ∧ (queued 6 500).parEn = true ∧ (queued 6 500).turns = [] :=
  ⟨inv_engine, rfl, rfl, rfl⟩

end Sys2Proof.Tests
end

section
/-! SUPPORT. The power-on state field by field (10_state.md R57), the invariant's parts at power-on, and when an
instance is constructed (00_scope.md R9). -/

namespace Sys2Proof.Machine

section
variable (c : Params) (p : Nat)
@[simp] theorem State.powerOn_cfg : (State.powerOn c p).cfg = c := rfl
@[simp] theorem State.powerOn_ctrl : (State.powerOn c p).ctrl = 0 := rfl
@[simp] theorem State.powerOn_pq : (State.powerOn c p).pq = Queue.initial := rfl
@[simp] theorem State.powerOn_bq : (State.powerOn c p).bq = Queue.initial := rfl
@[simp] theorem State.powerOn_dec : (State.powerOn c p).dec = Decoder.initial c.initBit := rfl
@[simp] theorem State.powerOn_par : (State.powerOn c p).par = Parser.initial := rfl
@[simp] theorem State.powerOn_msg : (State.powerOn c p).msg = [] := rfl
@[simp] theorem State.powerOn_res : (State.powerOn c p).res = Latch.initial := rfl
@[simp] theorem State.powerOn_reg : (State.powerOn c p).reg = [] := rfl
@[simp] theorem State.powerOn_regCount : (State.powerOn c p).regCount = 0 := rfl
@[simp] theorem State.powerOn_idStage : (State.powerOn c p).idStage = 0 := rfl
@[simp] theorem State.powerOn_fstage : (State.powerOn c p).fstage = List.replicate c.maxFields ⟨0, 0⟩ := rfl
@[simp] theorem State.powerOn_pqOvf : (State.powerOn c p).pqOvf = false := rfl
@[simp] theorem State.powerOn_bqOvf : (State.powerOn c p).bqOvf = false := rfl
@[simp] theorem State.powerOn_cnt : (State.powerOn c p).cnt = Counters.zero := rfl
@[simp] theorem State.powerOn_rsp : (State.powerOn c p).rsp = none := rfl
@[simp] theorem State.powerOn_turns : (State.powerOn c p).turns = [] := rfl
@[simp] theorem State.powerOn_power : (State.powerOn c p).power = p := rfl
end

/-- An array nothing was written to is in canonical form, whatever its capacity (R83). -/
theorem Cells.wf_nil {α : Type} (cap : Nat) : Cells.wf cap ([] : Cells α) :=
  ⟨.nil, fun _ h => absurd h List.not_mem_nil⟩

/-- An empty queue satisfies R36; the capacity must be positive for the cursors to be inside it. -/
theorem Queue.initial_wf {α : Type} {cap : Nat} (h : 0 < cap) : Queue.wf cap (Queue.initial : Queue α) := by
  refine ⟨?count, ?cursor, ?insertion, Cells.wf_nil cap, ?written⟩
  case count => simp [Queue.initial]
  case cursor => simpa [Queue.initial] using h
  case insertion => simp [Queue.initial]
  case written => simp [Queue.initial]

section
variable (c : Params) (p : Nat)

/-- An empty registry has no slot to check (R50). -/
theorem Registry.powerOn_wf : Registry.wf (State.powerOn c p) := by
  refine ⟨?count, Cells.wf_nil c.regCap, ?slots, ?above⟩
  case count => simp
  case slots => simp
  case above => simp

/-- The parser powers on searching for the sync nibble, which its cleared `NIB` is not (R42, R222). -/
theorem Parser.powerOn_phaseWf : phaseWf (State.powerOn c p) := by
  simp [phaseWf, nothingMatched, Parser.initial, syncNibble]

theorem Parser.powerOn_wf : Parser.wf (State.powerOn c p) := by
  refine ⟨?index, Cells.wf_nil c.msgCap, ?written, ?parity, Parser.powerOn_phaseWf c p⟩
  case index => simp [Parser.initial]
  case written => simp [Parser.initial]
  case parity => simp [Parser.initial]

/-- No flag is set and no event was counted (R52, R53). -/
theorem Events.powerOn_wf : Events.wf (State.powerOn c p) := by
  refine ⟨?pulses, ?symbols, ?checksum⟩
  case pulses => simp [Counters.zero]
  case symbols => simp [Counters.zero]
  case checksum => simp [Latch.initial]

end

/-- The derived `MIN_LEN_ALL` of R8 fits `MSG` exactly when `CH_IDX(p) + 3` does for both variants. -/
theorem minLenAll_le_iff (c : Params) (n : Nat) :
    c.minLenAll ≤ n ↔ c.chIdxV3 + 3 ≤ n ∧ c.chIdxV21 + 3 ≤ n := by
  simp only [Params.minLenAll, Params.minLen, Params.idNib, Params.chIdx]
  omega

/-- The model's check of an instance is R9's list of constraints. -/
theorem valid_iff_instanceConstraints (c : Params) : c.valid ↔ instanceConstraints c := by
  simp only [Params.valid, instanceConstraints, minLenAll_le_iff, and_assoc]

theorem construct_of_valid {c : Params} (p : Nat) (h : c.valid) : construct c p = .next (State.powerOn c p) :=
  if_pos h

theorem construct_of_not_valid {c : Params} (p : Nat) (h : ¬ c.valid) : construct c p = .fault .invalidInstance :=
  if_neg h

theorem step_of_not_valid {s : State} (h : ¬ s.cfg.valid) : step s = .fault .invalidInstance :=
  if_neg h

/-! ## The obligations on power-on and construction -/

/-- Settles O11: part by part, each storage array being empty; only the queues need the instance to be valid. -/
theorem powerOnSatisfiesInv : Obligations.PowerOnSatisfiesInv := by
  intro c p hvalid
  have ⟨⟨hpq, _⟩, ⟨hbq, _⟩, _⟩ := hvalid
  exact {
    instanceValid := hvalid
    pulseQueue := Queue.initial_wf hpq
    bitQueue := Queue.initial_wf hbq
    registry := Registry.powerOn_wf c p
    staging := by simp
    parser := Parser.powerOn_wf c p
    events := Events.powerOn_wf c p }

/-- Settles O14: construction and `step` make the same check, which is R9's list of constraints. -/
theorem invalidInstanceRefused : Obligations.InvalidInstanceRefused := by
  intro c p
  rw [← valid_iff_instanceConstraints]
  refine ⟨construct_of_valid p, fun hinvalid => ⟨construct_of_not_valid p hinvalid, ?_⟩⟩
  rintro s rfl
  exact step_of_not_valid hinvalid

end Sys2Proof.Machine
end

section
/-! SUPPORT. The reset table of 10_state.md R57 and the reset state. -/

namespace Sys2Proof.Machine

/-- An `FSTAGE` pair reads (0, 0) after power-on, at every number (R51, R57). -/
theorem State.powerOn_fstageAt (c : Params) (p k : Nat) : (State.powerOn c p).fstageAt k = ⟨0, 0⟩ := by
  simp only [State.fstageAt, powerOn_fstage, List.getD_eq_getElem?_getD, List.getElem?_replicate]
  split
  · rfl
  · rfl

/-- Settles O9: every register by the definition of power-on, the staged pairs by the lemma above. -/
theorem powerOnValues : Obligations.PowerOnValues := by
  rintro c p s rfl
  refine ⟨rfl, rfl, ?enables, ?pulseQueue, ?symbolQueue, ?decoder, rfl, rfl, rfl, rfl, ?staging, ?pairs,
    rfl, rfl, rfl⟩
  case enables => simp [State.edgeEn, State.decEn, State.parEn, State.proto, protoOf]
  case pulseQueue => exact ⟨rfl, rfl, rfl⟩
  case symbolQueue => exact ⟨rfl, rfl, rfl⟩
  case decoder => exact ⟨rfl, rfl, rfl⟩
  case staging => exact List.length_replicate
  case pairs => exact fun k _ => State.powerOn_fstageAt c p k

/-- R8's defaults meet R9. -/
theorem standard_valid : Params.standard.valid := by decide

/-- Settles O10: the reset state is power-on with R8's defaults, and every valid choice powers on so (O11). -/
theorem resetSatisfiesInv : Obligations.ResetSatisfiesInv :=
  powerOnSatisfiesInv Params.standard 0 standard_valid

end Sys2Proof.Machine
end

section
/-! SUPPORT. The invariant without the parser's phase, and that every update of the state keeps it (10_state.md R36, R50
to R53, 42_parser.md R229, R230). -/

namespace Sys2Proof.Machine

/-- The part of the invariant that also holds inside a parser step, between the store of a nibble and the decision it
leads to: all but the parser's phase. -/
structure CoreInv (s : State) : Prop where
  instanceValid : s.cfg.valid
  pulseQueue    : Queue.wf s.cfg.pqCap s.pq
  bitQueue      : Queue.wf s.cfg.bqCap s.bq
  registry      : Registry.wf s
  staging       : s.fstage.length = s.cfg.maxFields
  indexInside   : s.par.idx.toNat ≤ s.cfg.msgCap
  buffer        : Cells.wf s.cfg.msgCap s.msg
  written       : ∀ i < s.par.idx.toNat, (Cells.find s.msg i).isSome
  parity        : s.proto = .v3 → s.par.bitpar = 0
  events        : Events.wf s

theorem inv_iff {s : State} : Inv s ↔ CoreInv s ∧ phaseWf s := by
  constructor
  · intro h
    obtain ⟨hidx, hmsg, hwritten, hparity, hphase⟩ := h.parser
    exact ⟨{ h with indexInside := hidx, buffer := hmsg, written := hwritten, parity := hparity }, hphase⟩
  · rintro ⟨h, hphase⟩
    exact { h with parser := ⟨h.indexInside, h.buffer, h.written, h.parity, hphase⟩ }

theorem Inv.core {s : State} (h : Inv s) : CoreInv s := (inv_iff.1 h).1

theorem Inv.phase {s : State} (h : Inv s) : phaseWf s := (inv_iff.1 h).2

/-- `count` counts one event (R13, R53). -/
theorem countedOnce_bump (c : Count) : countedOnce c (bump c) := by
  show (bump c).toNat = min (c.toNat + 1) 0xFFFF
  unfold bump
  split
  · next h => rw [h]; rfl
  · next h =>
    have hne : c.toNat ≠ 0xFFFF := fun hc => h (BitVec.eq_of_toNat_eq hc)
    have hlt := c.isLt
    rw [BitVec.toNat_add, show (1 : Count).toNat = 1 from rfl]
    omega

theorem bump_ne_zero (c : Count) : bump c ≠ 0 := by
  intro h0
  have hcount : (bump c).toNat = min (c.toNat + 1) 0xFFFF := countedOnce_bump c
  rw [h0, show (0 : Count).toNat = 0 from rfl] at hcount
  omega

/-! ## Updates outside the parser -/

section
variable {s : State}

theorem Inv.respond (h : Inv s) (st : Status) (w : Word) : Inv (s.respond st w) := { h with }

theorem Inv.withTurns (h : Inv s) (turns : List Turn) : Inv { s with turns := turns } := { h with }

theorem Inv.withDec (h : Inv s) (dec : Decoder) : Inv { s with dec := dec } := { h with }

theorem Inv.withIdStage (h : Inv s) (x : Word) : Inv { s with idStage := x } := { h with }

theorem Inv.withFstage (h : Inv s) {pairs : List FieldPair} (hlen : pairs.length = s.cfg.maxFields) :
    Inv { s with fstage := pairs } := { h with staging := hlen }

theorem Inv.withPq (h : Inv s) {q : Queue Pulse} (hq : Queue.wf s.cfg.pqCap q) : Inv { s with pq := q } :=
  { h with pulseQueue := hq }

theorem Inv.withBq (h : Inv s) {q : Queue Symbol} (hq : Queue.wf s.cfg.bqCap q) : Inv { s with bq := q } :=
  { h with bitQueue := hq }

theorem CoreInv.pqCap_le (h : CoreInv s) : s.cfg.pqCap ≤ 255 := by
  obtain ⟨⟨-, hpq⟩, -⟩ := h.instanceValid
  exact hpq

theorem CoreInv.bqCap_le (h : CoreInv s) : s.cfg.bqCap ≤ 255 := by
  obtain ⟨-, ⟨-, hbq⟩, -⟩ := h.instanceValid
  exact hbq

theorem CoreInv.minLenAll_le_msgCap (h : CoreInv s) : s.cfg.minLenAll ≤ s.cfg.msgCap := by
  obtain ⟨-, -, -, ⟨hmin, -⟩, -⟩ := h.instanceValid
  exact hmin

theorem CoreInv.msgCap_le (h : CoreInv s) : s.cfg.msgCap ≤ 255 := by
  obtain ⟨-, -, -, ⟨-, hmsg⟩, -⟩ := h.instanceValid
  exact hmsg

theorem CoreInv.regCap_le (h : CoreInv s) : s.cfg.regCap ≤ 16 := by
  obtain ⟨-, -, -, -, ⟨-, hreg⟩, -⟩ := h.instanceValid
  exact hreg

theorem Inv.recordPqOvf (h : Inv s) : Inv s.recordPqOvf := by
  obtain ⟨-, hbq, hcks⟩ := h.events
  exact { h with events := ⟨iff_of_true rfl (bump_ne_zero _), hbq, hcks⟩ }

theorem Inv.recordBqOvf (h : Inv s) : Inv s.recordBqOvf := by
  obtain ⟨hpq, -, hcks⟩ := h.events
  exact { h with events := ⟨hpq, iff_of_true rfl (bump_ne_zero _), hcks⟩ }

/-- The six counters without a sticky flag may take any value. -/
theorem CoreInv.withCnt (h : CoreInv s) {c : Counters} (hpq : c.pqOvf = s.cnt.pqOvf) (hbq : c.bqOvf = s.cnt.bqOvf) :
    CoreInv { s with cnt := c } := by
  refine { h with events := ?_ }
  simpa only [Events.wf, hpq, hbq] using h.events

theorem CoreInv.countUnknown (h : CoreInv s) : CoreInv s.countUnknown := h.withCnt rfl rfl

theorem CoreInv.countCksFail (h : CoreInv s) : CoreInv s.countCksFail := h.withCnt rfl rfl

theorem CoreInv.countCksOk (h : CoreInv s) : CoreInv s.countCksOk := h.withCnt rfl rfl

theorem CoreInv.countBufOvf (h : CoreInv s) : CoreInv s.countBufOvf := h.withCnt rfl rfl

theorem Inv.countResync (h : Inv s) : Inv s.countResync := inv_iff.2 ⟨h.core.withCnt rfl rfl, h.phase⟩

theorem Inv.countDiscard (h : Inv s) : Inv s.countDiscard := inv_iff.2 ⟨h.core.withCnt rfl rfl, h.phase⟩

theorem Inv.clearEvents (h : Inv s) : Inv s.clearEvents := by
  obtain ⟨-, -, hcks⟩ := h.events
  exact { h with events := ⟨by simp [Counters.zero], by simp [Counters.zero], hcks⟩ }

/-! ## Updates of the parser -/

/-- The index only advances by a store, so every other update of `PAR` keeps the written part of `MSG`. -/
theorem CoreInv.setPar (h : CoreInv s) {p : Parser} (hidx : p.idx.toNat ≤ s.par.idx.toNat)
    (hbit : s.proto = .v3 → p.bitpar = 0) : CoreInv { s with par := p } :=
  { h with
    indexInside := hidx.trans h.indexInside
    written := fun i hi => h.written i (lt_of_lt_of_le hi hidx)
    parity := hbit }

theorem phaseWf_parserRestart (s : State) : phaseWf s.parserRestart := by
  simp [phaseWf, nothingMatched, Parser.initial, syncNibble]

theorem phaseWf_parserReset (s : State) : phaseWf s.parserReset := by
  simp [phaseWf, nothingMatched, Parser.initial, syncNibble]

theorem CoreInv.inv_parserRestart (h : CoreInv s) : Inv s.parserRestart :=
  inv_iff.2 ⟨h.setPar (by simp [Parser.initial]) h.parity, phaseWf_parserRestart s⟩

theorem CoreInv.inv_parserReset (h : CoreInv s) : Inv s.parserReset :=
  inv_iff.2 ⟨h.setPar (by simp [Parser.initial]) fun _ => rfl, phaseWf_parserReset s⟩

theorem octet_succ_toNat {i : Octet} {n : Nat} (h : i.toNat + 1 = n) (hn : n ≤ 255) : (i + 1).toNat = n := by
  rw [BitVec.toNat_add, show (1 : Octet).toNat = 1 from rfl, h]
  exact Nat.mod_eq_of_lt (by omega)

/-- The index does not wrap at a store (R44, R229). -/
theorem idx_succ_toNat (hcap : s.cfg.msgCap ≤ 255) (hlt : s.par.idx.toNat < s.cfg.msgCap) :
    (s.par.idx + 1).toNat = s.par.idx.toNat + 1 := octet_succ_toNat rfl (by omega)

/-- A store below `MSG_CAP` advances the index and writes the cell it passes (R229, R230). -/
theorem CoreInv.storeNibble (h : CoreInv s) (hlt : s.par.idx.toNat < s.cfg.msgCap) : CoreInv (storeNibble s) := by
  have hidx := idx_succ_toNat h.msgCap_le hlt
  refine { h with indexInside := ?inside, buffer := Cells.write_wf _ h.buffer hlt, written := fun i hi => ?written }
  case inside => simp only [Machine.storeNibble, hidx]; omega
  case written =>
    simp only [Machine.storeNibble, hidx] at hi
    refine Cells.find_write_isSome _ _ _ _ ?_
    by_cases hi' : i = s.par.idx.toNat
    · exact .inr hi'
    · exact .inl (h.written i (by omega))

theorem CoreInv.withRes (h : CoreInv s) {res : Latch} (hres : res.cksOk = true → res.done = true) :
    CoreInv { s with res := res } := by
  obtain ⟨hpq, hbq, -⟩ := h.events
  exact { h with events := ⟨hpq, hbq, hres⟩ }

/-! ## The registry -/

/-- A lookup answers a valid slot (R287). -/
theorem regLookup_lt {id : Word} {ch : Octet} {k : Nat} (h : regLookup s id ch = some k) : k < s.regCount.toNat := by
  rcases regLookup_cases s id ch with ⟨j, hj, hs, -, -⟩ | ⟨hn, -⟩
  · rw [h] at hs; obtain rfl := Option.some.inj hs; exact hj
  · rw [h] at hn; cases hn

/-- A valid slot's number has four bits (R50). -/
theorem CoreInv.slot_lt (h : CoreInv s) {k : Nat} (hk : k < s.regCount.toNat) : k < 16 := by
  obtain ⟨hcount, -⟩ := h.registry
  exact hk.trans_le (hcount.trans h.regCap_le)

theorem CoreInv.slot_toNat (h : CoreInv s) {k : Nat} (hk : k < s.regCount.toNat) : (BitVec.ofNat 4 k).toNat = k :=
  (BitVec.toNat_ofNat ..).trans (Nat.mod_eq_of_lt (h.slot_lt hk))

theorem CoreInv.registered_len (h : CoreInv s) {k : Nat} (hk : k < s.regCount.toNat) :
    s.cfg.minLenAll ≤ (s.regAt k).len.toNat := by
  obtain ⟨-, -, hslots, -⟩ := h.registry
  obtain ⟨-, hlen, -⟩ := hslots k hk
  exact hlen

theorem idNib_add_two_le_minLenAll (c : Params) (p : Proto) : c.idNib p + 2 ≤ c.minLenAll := by
  cases p <;> simp only [Params.minLenAll, Params.minLen] <;> omega

/-- Appending at `REG_COUNT` leaves the valid slots as they were (R284, R286). -/
theorem regAt_append {d : Descriptor} {n : BitVec 5} {k : Nat} (hk : k < s.regCount.toNat) :
    ({ s with reg := Cells.write s.reg s.regCount.toNat d, regCount := n } : State).regAt k = s.regAt k :=
  Cells.read_write_other _ _ _ (by omega)

theorem regAt_append_new {d : Descriptor} {n : BitVec 5} :
    ({ s with reg := Cells.write s.reg s.regCount.toNat d, regCount := n } : State).regAt s.regCount.toNat = d :=
  Cells.read_write_same ..

end
end Sys2Proof.Machine
end

section
/-! SUPPORT. Every operation and every step keeps the invariant (10_state.md R36 to R53, 42_parser.md R222 to R250). -/

namespace Sys2Proof.Machine

section
variable {s t : State}

/-! ## The parser's transitions -/

/-- At the end of the identity either outcome leaves a phase: the initial one, or `BODY` with the matched length still
ahead of the index (R239 to R241). -/
theorem CoreInv.inv_identify (h : CoreInv s) (hidx : s.par.idx.toNat = s.cfg.idNib s.proto) : Inv (identify s) := by
  rcases identify_cases s with ⟨-, he⟩ | ⟨k, hk, he⟩
  · rw [he]
    exact h.countUnknown.inv_parserRestart
  · rw [he]
    have hlt := regLookup_lt hk
    have hslot := h.slot_toNat hlt
    have hlen := h.registered_len hlt
    have hmin := idNib_add_two_le_minLenAll s.cfg s.proto
    refine inv_iff.2 ⟨h.setPar le_rfl h.parity, ?_⟩
    change matchRecorded (matched s k) ∧ s.cfg.idNib s.proto ≤ s.par.idx.toNat ∧
      s.par.idx.toNat < (s.regAt k).len.toNat
    refine ⟨⟨rfl, ?valid, ?length⟩, hidx.ge, by omega⟩
    case valid => simpa only [matched, hslot] using hlt
    case length => simp only [matched, hslot]; rfl

/-- At the message's last nibble either verdict leaves a phase: `COMPLETE` with the latch just written, or the initial
one (R250). -/
theorem CoreInv.inv_complete (h : CoreInv s) (hmatch : matchRecorded s) (hidx : s.par.idx = s.par.mlen)
    (hsub : s.par.sub = 0) (r : ParseRecord) : Inv (complete s r).1 := by
  have hres : CoreInv { s with res := completionLatch s } := h.withRes fun _ => rfl
  rcases complete_cases s r with ⟨hok, he⟩ | ⟨-, he⟩
  · rw [he]
    obtain ⟨hmatchv, hslot, hmlen⟩ := hmatch
    have hlen : s.cfg.minLenAll ≤ s.par.mlen.toNat := hmlen ▸ h.registered_len hslot
    refine inv_iff.2 ⟨hres.countCksOk.setPar le_rfl h.parity, ?_⟩
    exact ⟨⟨hmatchv, hslot, hmlen⟩, hidx, hsub, hlen, rfl, by simp [completionLatch, hok], rfl, rfl⟩
  · rw [he]
    exact hres.countCksFail.inv_parserRestart

theorem phaseWf_ident (hst : s.par.state = .ident) :
    phaseWf s ↔ s.par.idx.toNat < s.cfg.idNib s.proto ∧ nothingMatched s := by
  simp only [phaseWf, hst]

theorem phaseWf_body (hst : s.par.state = .body) : phaseWf s ↔
    matchRecorded s ∧ s.cfg.idNib s.proto ≤ s.par.idx.toNat ∧ s.par.idx.toNat < s.par.mlen.toNat := by
  simp only [phaseWf, hst]

theorem Inv.nibbleDone (h : Inv s) (hst : s.par.state = .ident ∨ s.par.state = .body) (hsub : s.par.sub = 0)
    (r : ParseRecord) : Inv (nibbleDone s r).1 := by
  have hcore := h.core
  rcases nibbleDone_cases s r with ⟨-, he⟩ | ⟨hlt, hcase⟩
  · rw [he]
    exact hcore.countBufOvf.inv_parserRestart
  have hstore := hcore.storeNibble hlt
  have hidx := idx_succ_toNat hcore.msgCap_le hlt
  rcases hcase with ⟨-, hid, he⟩ | ⟨hbody, hlast, he⟩ | ⟨hnid, hnlast, he⟩
  · rw [he]
    exact hstore.inv_identify hid
  · rw [he]
    have ⟨hmatch, _⟩ := (phaseWf_body hbody).1 h.phase
    exact hstore.inv_complete hmatch hlast hsub r
  · rw [he]
    refine inv_iff.2 ⟨hstore, ?_⟩
    rcases hst with hident | hbody
    · have ⟨hbefore, hnothing⟩ := (phaseWf_ident hident).1 h.phase
      have hne : (s.par.idx + 1).toNat ≠ s.cfg.idNib s.proto := fun e => hnid ⟨hident, e⟩
      refine (phaseWf_ident (s := storeNibble s) hident).2 ⟨?_, hnothing⟩
      change (s.par.idx + 1).toNat < s.cfg.idNib s.proto
      omega
    · have ⟨hmatch, hfrom, hbefore⟩ := (phaseWf_body hbody).1 h.phase
      have hne : (s.par.idx + 1).toNat ≠ s.par.mlen.toNat :=
        fun e => hnlast ⟨hbody, BitVec.eq_of_toNat_eq e⟩
      refine (phaseWf_body (s := storeNibble s) hbody).2 ⟨hmatch, ?_⟩
      change s.cfg.idNib s.proto ≤ (s.par.idx + 1).toNat ∧ (s.par.idx + 1).toNat < s.par.mlen.toNat
      omega

/-- In `IDENT` and `BODY` no phase speaks of the assembled nibble and the bit count (R42, R43). -/
theorem Inv.withNibble (h : Inv s) (hst : s.par.state = .ident ∨ s.par.state = .body) (nib : Nibble)
    (sub : BitVec 2) : Inv { s with par := { s.par with nib := nib, sub := sub } } := by
  refine inv_iff.2 ⟨h.core.setPar le_rfl h.core.parity, ?_⟩
  rcases hst with hst | hst
  · refine (phaseWf_ident ?_).2 ((phaseWf_ident hst).1 h.phase)
    exact hst
  · refine (phaseWf_body ?_).2 ((phaseWf_body hst).1 h.phase)
    exact hst

theorem Inv.accept (h : Inv s) (hne : s.par.state ≠ .complete) (b : BitVec 1) (r : ParseRecord) :
    Inv (accept b s r).1 := by
  rcases accept_cases b s r with ⟨hst, -, he⟩ | ⟨hst, hn, he⟩ | ⟨hst, -, he⟩ | ⟨hst, -, he⟩ | hst
  · rw [he]
    have hphase := h.phase
    simp only [phaseWf, hst] at hphase
    obtain ⟨-, hidx, -, hnothing⟩ := hphase
    refine inv_iff.2 ⟨h.core.setPar (by simp) h.core.parity, (phaseWf_ident rfl).2 ⟨?_, hnothing⟩⟩
    exact Nat.succ_pos _
  · rw [he]
    have hphase := h.phase
    simp only [phaseWf, hst] at hphase
    obtain ⟨-, hrest⟩ := hphase
    refine inv_iff.2 ⟨h.core.setPar le_rfl h.core.parity, ?_⟩
    simp only [phaseWf, hst]
    exact ⟨hn, hrest⟩
  · rw [he]
    exact (h.withNibble hst (shiftBit s.par.nib b) 0).nibbleDone hst rfl r
  · rw [he]
    exact h.withNibble hst _ _
  · exact absurd hst hne

/-- Under V21 nothing ties the parity bit to the rest of the parser (R45). -/
theorem Inv.flipParity (h : Inv s) (hproto : s.proto = .v21) : Inv (flipParity s) :=
  inv_iff.2 ⟨h.core.setPar le_rfl fun hv3 => by simp [hproto] at hv3, h.phase⟩

theorem Inv.deliverBit (h : Inv s) (hne : s.par.state ≠ .complete) (b : BitVec 1) : Inv (deliverBit b s).1 := by
  rcases deliverBit_cases b s with ⟨-, he⟩ | ⟨hp, -, he⟩ | ⟨hp, -, he⟩
  · rw [he]; exact h.accept hne b _
  · rw [he]; exact (h.flipParity hp).accept hne b _
  · rw [he]; exact h.flipParity hp

theorem Inv.deliver (h : Inv s) (y : Symbol) : Inv (deliver y s).1 := by
  rcases deliver_cases y s with ⟨-, he⟩ | ⟨-, -, he⟩ | ⟨hne, -, he⟩
  · rw [he]; exact h.countDiscard
  · rw [he]; exact h.core.inv_parserReset
  · rw [he]; exact h.deliverBit hne _

/-! ## The decoder's transitions -/

theorem Inv.emit (h : Inv s) (y : Symbol) : Inv (emit y s).1 := by
  rcases emit_cases y s with ⟨q, hq, he⟩ | ⟨-, he⟩
  · rw [he]; exact h.withBq (Queue.insert_wf h.core.bqCap_le h.bitQueue hq)
  · rw [he]; exact h.recordBqOvf

theorem Inv.decodeStep (h : Inv s) (d : Pulse) : Inv (decodeStep d s).1 := by
  rcases decodeStep_cases d s with ⟨-, he⟩ | ⟨-, dec, -, ⟨-, he⟩ | ⟨-, he⟩⟩
  · rw [he]
    exact (h.withDec (Decoder.initial s.cfg.initBit)).countResync.emit .resync
  · rw [he]; exact (h.withDec dec).emit _
  · rw [he]; exact h.withDec dec

theorem Inv.runDecStep (h : Inv s) {w : Word} (hrun : runDecStep s = some (t, w)) : Inv t := by
  rcases runDecStep_cases s with ⟨-, he⟩ | ⟨-, d, q, hq, he⟩
  · rw [he] at hrun; cases hrun
  · rw [he] at hrun
    obtain ⟨rfl, -⟩ := Prod.mk.inj (Option.some.inj hrun)
    exact (h.withPq (Queue.remove_wf h.core.pqCap_le h.pulseQueue hq)).decodeStep d

theorem Inv.runParseStep (h : Inv s) {w : Word} (hrun : runParseStep s = some (t, w)) : Inv t := by
  rcases runParseStep_cases s with ⟨-, he⟩ | ⟨-, y, q, hq, he⟩
  · rw [he] at hrun; cases hrun
  · rw [he] at hrun
    obtain ⟨rfl, -⟩ := Prod.mk.inj (Option.some.inj hrun)
    exact (h.withBq (Queue.remove_wf h.core.bqCap_le h.bitQueue hq)).deliver y

theorem Inv.engineStep (h : Inv s) : Inv (engineStep s) := by
  rcases engineStep_cases s with ⟨-, -, w, hrun⟩ | ⟨-, -, -, w, hrun⟩ | ⟨-, -, he⟩
  · exact h.runParseStep hrun
  · exact h.runDecStep hrun
  · rw [he]; exact h

/-! ## The operations -/

theorem Inv.resetParser (h : Inv s) : Inv s.resetParser :=
  inv_iff.2 ⟨h.core.inv_parserReset.core.withRes (by simp), phaseWf_parserReset s⟩

theorem Inv.execReset {m : BitVec 2} (h : Inv s) (he : exec (.reset m) s = .next t) : Inv t := by
  obtain rfl := Host.Outcome.next.inj he
  refine Inv.respond ?_ .ok 0
  have hdec : Inv (if m.getLsbD 0 then s.decReset else s) := by
    split
    · exact h.withDec _
    · exact h
  split
  · exact hdec.resetParser
  · exact hdec

/-- A change of `PROTO` resets the parser, because its phase speaks of the protocol's identity length (R326). -/
theorem Inv.execWrCtrl {c : BitVec 4} (h : Inv s) (he : exec (.wrCtrl c) s = .next t) : Inv t := by
  obtain rfl := Host.Outcome.next.inj he
  refine Inv.respond ?_ .ok 0
  split
  · next hsame =>
    have hproto : ({ s with ctrl := c } : State).proto = s.proto := hsame
    refine inv_iff.2 ⟨{ h.core with parity := hproto ▸ h.core.parity }, ?_⟩
    have hphase := h.phase
    unfold phaseWf at hphase ⊢
    rw [hproto]
    exact hphase
  · exact inv_iff.2 ⟨{ h.core with
      indexInside := Nat.zero_le _, written := by simp [Parser.initial], parity := fun _ => rfl },
      phaseWf_parserReset _⟩

/-- The descriptor `REG_ADD` accepts is a registered slot's (R284). -/
theorem Registry.append_wf {f : BitVec 5} {l c : Octet} (h : CoreInv s)
    (hf : f.toNat ≤ s.cfg.maxFields) (hl : s.cfg.minLenAll ≤ l.toNat) (hlt : s.regCount.toNat < s.cfg.regCap)
    (hcount : (s.regCount + 1).toNat = s.regCount.toNat + 1) :
    Registry.wf { s with reg := Cells.write s.reg s.regCount.toNat (stagedDescriptor s f l c),
                         regCount := s.regCount + 1 } := by
  obtain ⟨-, hcells, hslots, habove⟩ := h.registry
  refine ⟨?count, Cells.write_wf _ hcells hlt, fun k hk => ?slots, fun p hp => ?above⟩
  case count => simp only [hcount]; omega
  case slots =>
    simp only [hcount] at hk
    by_cases hnew : k = s.regCount.toNat
    · subst hnew
      refine ⟨Cells.find_write_isSome _ _ _ _ (.inr rfl), ?_⟩
      simp only [regAt_append_new]
      exact ⟨hl, hf, by simp [stagedDescriptor]⟩
    · have hold : k < s.regCount.toNat := by omega
      obtain ⟨hsome, hslot⟩ := hslots k hold
      refine ⟨Cells.find_write_isSome _ _ _ _ (.inl hsome), ?_⟩
      simpa only [regAt_append hold] using hslot
  case above =>
    simp only [hcount]
    rcases Cells.mem_write hp with rfl | hp
    · exact Nat.lt_succ_self _
    · exact Nat.lt_succ_of_lt (habove p hp)

/-- An appended slot changes no slot the match record can point at (R241, R286). -/
theorem matchRecorded_append {d : Descriptor} (hcount : (s.regCount + 1).toNat = s.regCount.toNat + 1)
    (hmatch : matchRecorded s) :
    matchRecorded { s with reg := Cells.write s.reg s.regCount.toNat d, regCount := s.regCount + 1 } := by
  obtain ⟨hv, hslot, hlen⟩ := hmatch
  exact ⟨hv, by simp only [hcount]; omega, by simpa only [regAt_append hslot] using hlen⟩

theorem Inv.append (h : Inv s) {f : BitVec 5} {l c : Octet} (hf : f.toNat ≤ s.cfg.maxFields)
    (hl : s.cfg.minLenAll ≤ l.toNat) (hfull : s.regCount.toNat ≠ s.cfg.regCap) :
    Inv { s with reg := Cells.write s.reg s.regCount.toNat (stagedDescriptor s f l c),
                 regCount := s.regCount + 1 } := by
  have hcap := h.core.regCap_le
  obtain ⟨hle, -⟩ := h.registry
  have hcount : (s.regCount + 1).toNat = s.regCount.toNat + 1 := by
    rw [BitVec.toNat_add]; simp; omega
  refine inv_iff.2 ⟨{ h.core with registry := Registry.append_wf h.core hf hl (by omega) hcount }, ?_⟩
  have hphase := h.phase
  unfold phaseWf at hphase ⊢
  cases hst : s.par.state <;> simp only [hst] at hphase ⊢
  case sync => exact hphase
  case ident => exact hphase
  case body => exact hphase.imp_left (matchRecorded_append hcount)
  case complete => exact hphase.imp_left (matchRecorded_append hcount)

theorem Inv.execRegAdd {f : BitVec 5} {l c : Octet} (h : Inv s) (he : exec (.regAdd f l c) s = .next t) : Inv t := by
  rcases execRegAdd_cases f l c s with ⟨-, hs⟩ | ⟨-, -, hs⟩ | ⟨-, -, -, hs⟩ | ⟨-, ⟨hf, hl⟩, hfull, hs⟩ <;>
    rw [hs] at he <;> obtain rfl := Host.Outcome.next.inj he
  · exact h.respond _ _
  · exact h.respond _ _
  · exact h.respond _ _
  · exact (h.append hf hl hfull).respond _ _

theorem Inv.execDecStep (h : Inv s) (he : exec .decStep s = .next t) : Inv t := by
  rcases execDecStep_cases s with ⟨-, hs⟩ | ⟨-, -, hs⟩ | ⟨-, -, u, w, hrun, hs⟩ <;>
    rw [hs] at he <;> obtain rfl := Host.Outcome.next.inj he
  · exact h.respond _ _
  · exact h.respond _ _
  · exact (h.runDecStep hrun).respond _ _

theorem Inv.execParseStep (h : Inv s) (he : exec .parseStep s = .next t) : Inv t := by
  rcases execParseStep_cases s with ⟨-, hs⟩ | ⟨-, -, hs⟩ | ⟨-, -, u, w, hrun, hs⟩ <;>
    rw [hs] at he <;> obtain rfl := Host.Outcome.next.inj he
  · exact h.respond _ _
  · exact h.respond _ _
  · exact (h.runParseStep hrun).respond _ _

theorem Inv.execPopSymbol (h : Inv s) (he : exec .popSymbol s = .next t) : Inv t := by
  rcases execPopSymbol_cases s with ⟨-, hs⟩ | ⟨-, -, hs⟩ | ⟨-, -, y, q, hq, hs⟩ <;>
    rw [hs] at he <;> obtain rfl := Host.Outcome.next.inj he
  · exact h.respond _ _
  · exact h.respond _ _
  · exact (h.withBq (Queue.remove_wf h.core.bqCap_le h.bitQueue hq)).respond _ _

theorem Inv.execFeedBit {b : BitVec 1} (h : Inv s) (he : exec (.feedBit b) s = .next t) : Inv t := by
  rcases execFeedBit_cases b s with ⟨-, hs⟩ | ⟨-, hs⟩ <;>
    rw [hs] at he <;> obtain rfl := Host.Outcome.next.inj he
  · exact h.respond _ _
  · exact (h.deliver _).respond _ _

theorem Inv.execPushPulse {d : Pulse} (h : Inv s) (he : exec (.pushPulse d) s = .next t) : Inv t := by
  rcases execPushPulse_cases d s with ⟨-, hs⟩ | ⟨-, -, hs⟩ | ⟨-, q, hq, hs⟩ <;>
    rw [hs] at he <;> obtain rfl := Host.Outcome.next.inj he
  · exact h
  · exact h.recordPqOvf
  · exact h.withPq (Queue.insert_wf h.core.pqCap_le h.pulseQueue hq)

/-- What `SET_FIELD` can do (R282). -/
theorem execSetField_cases (k : BitVec 4) (a e : Octet) (s : State) :
    (s.cfg.maxFields ≤ k.toNat ∧ exec (.setField k a e) s = .next (s.respond .badarg 0)) ∨
    (k.toNat < s.cfg.maxFields ∧ exec (.setField k a e) s =
      .next (({ s with fstage := s.fstage.set k.toNat ⟨a, e⟩ } : State).respond .ok 0)) := by
  by_cases hk : k.toNat < s.cfg.maxFields
  · exact .inr ⟨hk, by simp [exec, execSetField, fieldInRange, hk, done]⟩
  · exact .inl ⟨by omega, by simp [exec, execSetField, fieldInRange, hk, raise]⟩

theorem Inv.execSetField {k : BitVec 4} {a e : Octet} (h : Inv s) (he : exec (.setField k a e) s = .next t) :
    Inv t := by
  rcases execSetField_cases k a e s with ⟨-, hs⟩ | ⟨-, hs⟩ <;>
    rw [hs] at he <;> obtain rfl := Host.Outcome.next.inj he
  · exact h.respond _ _
  · exact (h.withFstage (by rw [List.length_set]; exact h.staging)).respond _ _

/-- A read answers, and changes nothing but the response (R87). -/
theorem exec_read_respond {i : Instr}
    (hi : (∃ n, i = .rdCsr n) ∨ (∃ n, i = .rdMsg n) ∨ (∃ k w, i = .rdSlot k w) ∨ (∃ c, i = .lookup c)) (s : State) :
    ∃ st w, exec i s = .next (s.respond st w) := by
  rcases hi with ⟨n, rfl⟩ | ⟨n, rfl⟩ | ⟨k, w, rfl⟩ | ⟨c, rfl⟩
  · simp only [exec, execRdCsr]
    split
    · exact ⟨_, _, rfl⟩
    · exact ⟨_, _, rfl⟩
  · simp only [exec, execRdMsg]
    split
    · exact ⟨_, _, rfl⟩
    · exact ⟨_, _, rfl⟩
  · simp only [exec, execRdSlot]
    split
    · exact ⟨_, _, rfl⟩
    · exact ⟨_, _, rfl⟩
  · exact ⟨_, _, rfl⟩

theorem Inv.execRead {i : Instr} (h : Inv s)
    (hi : (∃ n, i = .rdCsr n) ∨ (∃ n, i = .rdMsg n) ∨ (∃ k w, i = .rdSlot k w) ∨ (∃ c, i = .lookup c))
    (he : exec i s = .next t) : Inv t := by
  obtain ⟨st, w, hs⟩ := exec_read_respond hi s
  rw [hs] at he
  obtain rfl := Host.Outcome.next.inj he
  exact h.respond st w

/-- Every operation keeps the invariant. -/
theorem Inv.of_exec {i : Instr} (h : Inv s) (he : exec i s = .next t) : Inv t := by
  cases i with
  | nop => obtain rfl := Host.Outcome.next.inj he; exact h.respond _ _
  | pushPulse d => exact h.execPushPulse he
  | decStep => exact h.execDecStep he
  | parseStep => exact h.execParseStep he
  | popSymbol => exact h.execPopSymbol he
  | feedBit b => exact h.execFeedBit he
  | reset m => exact h.execReset he
  | wrCtrl c => exact h.execWrCtrl he
  | rdCsr n => exact h.execRead (.inl ⟨n, rfl⟩) he
  | rdMsg k => exact h.execRead (.inr (.inl ⟨k, rfl⟩)) he
  | loadIdLo x => obtain rfl := Host.Outcome.next.inj he; exact (h.withIdStage _).respond _ _
  | loadIdHi x => obtain rfl := Host.Outcome.next.inj he; exact (h.withIdStage _).respond _ _
  | setField k a e => exact h.execSetField he
  | regAdd f l c => exact h.execRegAdd he
  | rdSlot k w => exact h.execRead (.inr (.inr (.inl ⟨k, w, rfl⟩))) he
  | clrCnt => obtain rfl := Host.Outcome.next.inj he; exact h.clearEvents.respond _ _
  | lookup c => exact h.execRead (.inr (.inr (.inr ⟨c, rfl⟩))) he

end

/-- Settles O12: the step's turn is an operation, a refused word or ENGINE's choice, and each keeps the invariant. -/
theorem stepKeepsInvariant : Obligations.StepKeepsInvariant := by
  intro s t h hstep
  obtain ⟨-, ⟨d, rest, -, he⟩ | ⟨w, rest, e, -, -, rfl⟩ | ⟨w, rest, i, -, -, he⟩ | ⟨rest, -, rfl⟩⟩ := step_cases hstep
  · exact (h.withTurns rest).of_exec he
  · exact (h.withTurns rest).respond .illegal 0
  · exact (h.withTurns rest).of_exec he
  · exact (h.withTurns rest).engineStep

end Sys2Proof.Machine
end

section
/-! SUPPORT. What `FEED_BIT` of an accepted bit does (42_parser.md R224 to R250): the bit enters the nibble, and the
fourth bit of a nibble overruns, stores, identifies or completes. -/

namespace Sys2Proof.Machine

/-- The parser with the parity an accepted bit leaves (R224). -/
def State.withParity (s : State) (q : BitVec 1) : State := { s with par := { s.par with bitpar := q } }

/-- The state in which the nibble that an accepted bit completes is judged (R225). -/
def nibbleReady (s : State) (b q : BitVec 1) : State :=
  { s with par := { s.par with nib := nextNibble s b, sub := 0, bitpar := q } }

/-- The state with that nibble stored and the index advanced (R229). -/
def nibbleStored (s : State) (b q : BitVec 1) : State :=
  { s with msg := Cells.write s.msg s.par.idx.toNat (nextNibble s b),
           par := { s.par with nib := nextNibble s b, sub := 0, idx := s.par.idx + 1, bitpar := q } }

/-- A delivery with its response (R253, R254). -/
def answered (b : BitVec 1) (d : State × ParseRecord) : State :=
  d.1.respond .ok (parseResult (symbolOfBit b) d.1 d.2)

section
variable {s : State} {b q : BitVec 1}

/-- The shift of R226 is the newest bit before the last three. -/
theorem shiftBit_eq_append : ∀ (n : Nibble) (b : BitVec 1), shiftBit n b = b ++ n.extractLsb' 1 3 := by decide

theorem symbolCode_symbolOfBit : ∀ b : BitVec 1, symbolCode (symbolOfBit b) = 0#1 ++ b := by decide

theorem symbolOfBit_ne_resync (b : BitVec 1) : symbolOfBit b ≠ .resync := by
  unfold symbolOfBit
  split
  · exact Symbol.noConfusion
  · exact Symbol.noConfusion

theorem bitOf_symbolOfBit : ∀ b : BitVec 1, bitOf (symbolOfBit b) = b := by decide

theorem parseResultWord_layout : ∀ (p : BitVec 2) (b : BitVec 1) (ok completed : Bool),
    (0#22 ++ p ++ 0#2 ++ (0#1 ++ b) ++ BitVec.ofBool false ++ BitVec.ofBool true ++ BitVec.ofBool ok ++
      BitVec.ofBool completed : Word) = acceptedWord p b (BitVec.ofBool ok ++ BitVec.ofBool completed) := by
  decide

/-- The result word of an accepted data bit (R253). -/
theorem parseResult_accepted (b : BitVec 1) (t : State) (completed ok : Bool) :
    parseResult (symbolOfBit b) t ⟨completed, ok, true, false⟩ =
      acceptedWord (parStateCode t.par.state) b (BitVec.ofBool ok ++ BitVec.ofBool completed) := by
  rw [parseResult, symbolCode_symbolOfBit]
  exact parseResultWord_layout ..

theorem deliverBit_accepted (hq : acceptedParity s q) :
    deliverBit b s = accept b (s.withParity q) { accepted := true } := by
  rcases deliverBit_cases b s with ⟨hp, he⟩ | ⟨hp, hb, he⟩ | ⟨hp, hb, he⟩ <;>
    obtain ⟨hp', rfl⟩ | ⟨hp', hb', rfl⟩ := hq
  · exact he
  · simp [hp] at hp'
  · simp [hp] at hp'
  · rw [he]; simp [flipParity, State.withParity, hb]
  · simp [hp] at hp'
  · exact absurd hb' hb

theorem exec_feedBit_accepted (hen : s.parEn = false) (hq : acceptedParity s q) (hne : s.par.state ≠ .complete) :
    exec (.feedBit b) s = .next (answered b (accept b (s.withParity q) { accepted := true })) := by
  rcases execFeedBit_cases b s with ⟨hbusy, -⟩ | ⟨-, he⟩
  · simp [hen] at hbusy
  rcases deliver_cases (symbolOfBit b) s with ⟨hc, -⟩ | ⟨-, hr, -⟩ | ⟨-, -, hd⟩
  · exact absurd hc hne
  · exact absurd hr (symbolOfBit_ne_resync b)
  · rw [he, hd, bitOf_symbolOfBit, deliverBit_accepted hq, answered]

theorem storeNibble_nibbleReady (s : State) (b q : BitVec 1) :
    storeNibble (nibbleReady s b q) = nibbleStored s b q := by
  simp only [storeNibble, nibbleReady, nibbleStored]

theorem ne_complete_of_receiving (hst : s.par.state = .ident ∨ s.par.state = .body) : s.par.state ≠ .complete := by
  rcases hst with h | h <;> simp [h]

/-- The fourth bit of a nibble in `IDENT` and `BODY` (R225). -/
theorem exec_feedBit_nibble (hen : s.parEn = false) (hq : acceptedParity s q) (hsub : s.par.sub = 3)
    (hst : s.par.state = .ident ∨ s.par.state = .body) :
    exec (.feedBit b) s = .next (answered b (nibbleDone (nibbleReady s b q) { accepted := true })) := by
  rw [exec_feedBit_accepted hen hq (ne_complete_of_receiving hst)]
  rcases accept_cases b (s.withParity q) { accepted := true } with
    ⟨h, -⟩ | ⟨h, -⟩ | ⟨-, -, he⟩ | ⟨-, hs, -⟩ | h
  · exact absurd hst (by simp [show s.par.state = .sync from h])
  · exact absurd hst (by simp [show s.par.state = .sync from h])
  · rw [he, shiftBit_eq_append]; rfl
  · exact absurd (show s.par.sub + 1 = 0 by rw [hsub]; rfl) hs
  · exact absurd h (ne_complete_of_receiving hst)

/-- An earlier bit of a nibble is only shifted in and counted (R225, R226, R228). -/
theorem exec_feedBit_within (hen : s.parEn = false) (hq : acceptedParity s q) (hsub : s.par.sub ≠ 3)
    (hst : s.par.state = .ident ∨ s.par.state = .body) :
    exec (.feedBit b) s = .next
      (({ s with par := { s.par with nib := nextNibble s b, sub := s.par.sub + 1, bitpar := q } } : State).respond .ok
        (acceptedWord (parStateCode s.par.state) b 0)) := by
  have hwrap : ∀ x : BitVec 2, x + 1 = 0 → x = 3 := by decide
  rw [exec_feedBit_accepted hen hq (ne_complete_of_receiving hst)]
  rcases accept_cases b (s.withParity q) { accepted := true } with
    ⟨h, -⟩ | ⟨h, -⟩ | ⟨-, hs, -⟩ | ⟨-, -, he⟩ | h
  · exact absurd hst (by simp [show s.par.state = .sync from h])
  · exact absurd hst (by simp [show s.par.state = .sync from h])
  · exact absurd (hwrap _ hs) hsub
  · rw [he, answered, parseResult_accepted, shiftBit_eq_append]; rfl
  · exact absurd h (ne_complete_of_receiving hst)

/-! ## The four outcomes of a completed nibble -/

/-- At capacity nothing is stored; the parser restarts (R244). -/
theorem exec_feedBit_overrun (hen : s.parEn = false) (hq : acceptedParity s q) (hsub : s.par.sub = 3)
    (hst : s.par.state = .ident ∨ s.par.state = .body) (hcap : s.cfg.msgCap ≤ s.par.idx.toNat) :
    exec (.feedBit b) s = .next (({ s with
      par := restarted q, cnt := { s.cnt with bufOvf := bump s.cnt.bufOvf } } : State).respond .ok
        (acceptedWord 0 b 0)) := by
  rw [exec_feedBit_nibble hen hq hsub hst]
  rcases nibbleDone_cases (nibbleReady s b q) { accepted := true } with ⟨-, he⟩ | ⟨hlt, -⟩
  · rw [he, answered, parseResult_accepted]
    simp only [State.parserRestart, State.countBufOvf, nibbleReady, Parser.initial]
    rfl
  · exact absurd hcap (Nat.not_le.2 hlt)

/-- The nibble that completes the identity is stored and looked up (R239). -/
theorem exec_feedBit_identify (hen : s.parEn = false) (hq : acceptedParity s q) (hsub : s.par.sub = 3)
    (hst : s.par.state = .ident) (hlt : s.par.idx.toNat < s.cfg.msgCap)
    (hid : (s.par.idx + 1).toNat = s.cfg.idNib s.proto) :
    exec (.feedBit b) s = .next ((identify (nibbleStored s b q)).respond .ok
      (acceptedWord (parStateCode (identify (nibbleStored s b q)).par.state) b 0)) := by
  rw [exec_feedBit_nibble hen hq hsub (.inl hst)]
  rcases nibbleDone_cases (nibbleReady s b q) { accepted := true } with
    ⟨hcap, -⟩ | ⟨-, ⟨-, -, he⟩ | ⟨hbody, -⟩ | ⟨hnid, -⟩⟩
  · exact absurd hlt (Nat.not_lt.2 hcap)
  · rw [he, answered, parseResult_accepted, storeNibble_nibbleReady]; rfl
  · exact absurd (hst.symm.trans hbody) ParState.noConfusion
  · exact absurd ⟨hst, hid⟩ hnid

/-- The message's last nibble is stored and the checksum judged (R246, R250). -/
theorem exec_feedBit_complete (hen : s.parEn = false) (hq : acceptedParity s q) (hsub : s.par.sub = 3)
    (hst : s.par.state = .body) (hlt : s.par.idx.toNat < s.cfg.msgCap) (hlast : s.par.idx + 1 = s.par.mlen) :
    exec (.feedBit b) s =
      .next (answered b (complete (nibbleStored s b q) { accepted := true })) := by
  rw [exec_feedBit_nibble hen hq hsub (.inr hst)]
  rcases nibbleDone_cases (nibbleReady s b q) { accepted := true } with
    ⟨hcap, -⟩ | ⟨-, ⟨hident, -⟩ | ⟨-, -, he⟩ | ⟨-, hnlast, -⟩⟩
  · exact absurd hlt (Nat.not_lt.2 hcap)
  · exact absurd (hst.symm.trans hident) ParState.noConfusion
  · rw [he, storeNibble_nibbleReady]
  · exact absurd ⟨hst, hlast⟩ hnlast

/-- Any other nibble is only stored (R229). -/
theorem exec_feedBit_store (hen : s.parEn = false) (hq : acceptedParity s q) (hsub : s.par.sub = 3)
    (hst : s.par.state = .ident ∨ s.par.state = .body) (hlt : s.par.idx.toNat < s.cfg.msgCap)
    (hnid : ¬ (s.par.state = .ident ∧ (s.par.idx + 1).toNat = s.cfg.idNib s.proto))
    (hnlast : ¬ (s.par.state = .body ∧ s.par.idx + 1 = s.par.mlen)) :
    exec (.feedBit b) s = .next ((nibbleStored s b q).respond .ok (acceptedWord (parStateCode s.par.state) b 0)) := by
  rw [exec_feedBit_nibble hen hq hsub hst]
  rcases nibbleDone_cases (nibbleReady s b q) { accepted := true } with
    ⟨hcap, -⟩ | ⟨-, ⟨h1, h2, -⟩ | ⟨h1, h2, -⟩ | ⟨-, -, he⟩⟩
  · exact absurd hlt (Nat.not_lt.2 hcap)
  · exact absurd ⟨h1, h2⟩ hnid
  · exact absurd ⟨h1, h2⟩ hnlast
  · rw [he, answered, parseResult_accepted, storeNibble_nibbleReady]; rfl

/-! ## What a store, a lookup and a checksum read -/

/-- A store writes the cell at the index and no other (R229). -/
theorem storedNibble_nibbleStored (s : State) (b q : BitVec 1) :
    storedNibble s.par.idx.toNat (nextNibble s b) s (nibbleStored s b q) :=
  ⟨Cells.read_write_same .., fun _ h => Cells.read_write_other _ _ _ h⟩

theorem slotMatches_iff {id : Word} {ch : Octet} {k : Nat} :
    slotMatches s id ch k = true ↔ (s.regAt k).id = id ∧ (s.regAt k).ch = ch := by
  simp [slotMatches]

theorem regLookup_of_noMatch {id : Word} {ch : Octet} (h : noMatch s id ch) : regLookup s id ch = none := by
  rcases regLookup_cases s id ch with ⟨k, hk, -, hm, -⟩ | ⟨hn, -⟩
  · exact absurd (slotMatches_iff.1 hm) (h k hk)
  · exact hn

theorem regLookup_of_firstMatch {id : Word} {ch : Octet} {k : Nat} (h : firstMatch s id ch k) :
    regLookup s id ch = some k := by
  obtain ⟨hk, hid, hch, hbefore⟩ := h
  have hmatch : slotMatches s id ch k = true := slotMatches_iff.2 ⟨hid, hch⟩
  rcases regLookup_cases s id ch with ⟨j, -, hs, hm, hj⟩ | ⟨-, hnone⟩
  · have hjk : ¬ j < k := fun hlt => hbefore j hlt (slotMatches_iff.1 hm)
    have hkj : ¬ k < j := fun hlt => by simp [hj k hlt] at hmatch
    rw [hs, show j = k by omega]
  · simp [hnone k hk] at hmatch

theorem deviceId_identify (s : State) : deviceId (identify s) = deviceId s := by
  rcases identify_cases s with ⟨-, he⟩ | ⟨k, -, he⟩
  · rw [he]; rfl
  · rw [he]; rfl

theorem channel_identify (s : State) : channel (identify s) = channel s := by
  rcases identify_cases s with ⟨-, he⟩ | ⟨k, -, he⟩
  · rw [he]; rfl
  · rw [he]; rfl

theorem identify_of_noMatch (h : noMatch s (deviceId s) (channel s)) : identify s = unknownSensor s := by
  rw [identify, regLookup_of_noMatch h]

theorem identify_of_firstMatch {k : Nat} (h : firstMatch s (deviceId s) (channel s) k) : identify s = matched s k := by
  rw [identify, regLookup_of_firstMatch h]

/-- The checksum is the sum of the cells of its range, low 8 bits (R248). -/
theorem checksumCalc_toNat (s : State) :
    (checksumCalc s).toNat = nibbleSum s (s.cfg.idStart s.proto) (s.par.mlen.toNat - 2) := by
  rw [checksumCalc, BitVec.toNat_ofNat]
  rfl

theorem unknownSensor_nibbleStored (s : State) (b q : BitVec 1) : unknownSensor (nibbleStored s b q) =
    { s with msg := (nibbleStored s b q).msg, par := restarted q,
             cnt := { s.cnt with unknown := bump s.cnt.unknown } } := by
  simp only [unknownSensor, State.countUnknown, State.parserRestart, nibbleStored, Parser.initial]

theorem matched_nibbleStored (s : State) (b q : BitVec 1) (k : Nat) : matched (nibbleStored s b q) k =
    { s with msg := (nibbleStored s b q).msg,
             par := { s.par with nib := nextNibble s b, sub := 0, idx := s.par.idx + 1, bitpar := q, matchv := true,
                                 slot := BitVec.ofNat 4 k, mlen := (s.regAt k).len, state := .body } } := by
  simp only [matched, nibbleStored, State.regAt]

/-- A message whose checksum agrees is held (R250). -/
theorem answered_complete_good (h : checksumCalc (nibbleStored s b q) = checksumRecv (nibbleStored s b q)) :
    answered b (complete (nibbleStored s b q) { accepted := true }) =
      ({ s with msg := (nibbleStored s b q).msg, res := completionLatch (nibbleStored s b q),
                par := { s.par with nib := nextNibble s b, sub := 0, idx := s.par.idx + 1, bitpar := q,
                                    state := .complete },
                cnt := { s.cnt with cksOk := bump s.cnt.cksOk } } : State).respond .ok (acceptedWord 3 b 0b11) := by
  rcases complete_cases (nibbleStored s b q) { accepted := true } with ⟨-, he⟩ | ⟨hne, -⟩
  · rw [he, answered, parseResult_accepted]
    simp only [nibbleStored]
    rfl
  · exact absurd h hne

/-- A message whose checksum does not agree is dropped (R250). -/
theorem answered_complete_bad (h : checksumCalc (nibbleStored s b q) ≠ checksumRecv (nibbleStored s b q)) :
    answered b (complete (nibbleStored s b q) { accepted := true }) =
      ({ s with msg := (nibbleStored s b q).msg, res := completionLatch (nibbleStored s b q),
                par := restarted q,
                cnt := { s.cnt with cksFail := bump s.cnt.cksFail } } : State).respond .ok (acceptedWord 0 b 0b01) := by
  rcases complete_cases (nibbleStored s b q) { accepted := true } with ⟨heq, -⟩ | ⟨-, he⟩
  · exact absurd heq h
  · rw [he, answered, parseResult_accepted]
    simp only [State.countCksFail, State.parserRestart, nibbleStored, Parser.initial]
    rfl

end

/-! ## The obligations on a completed nibble -/

/-- Settles O29. -/
theorem capacityExceeded : Obligations.CapacityExceeded := by
  intro s b q hen hq hsub hst hcap
  exact ⟨_, exec_feedBit_overrun hen hq hsub hst hcap, countedOnce_bump s.cnt.bufOvf, rfl, rfl, rfl⟩

/-- Settles O31: the stored nibble completes the key, and the lookup's answer decides. -/
theorem identificationDecides : Obligations.IdentificationDecides := by
  intro s b q hinv hen hq hsub hst hid
  have hcap := hinv.core.msgCap_le
  have hroom : s.cfg.idNib s.proto + 2 ≤ s.cfg.msgCap :=
    (idNib_add_two_le_minLenAll ..).trans hinv.core.minLenAll_le_msgCap
  refine ⟨_, exec_feedBit_identify hen hq hsub hst (by omega) (octet_succ_toNat hid (by omega)), ?_⟩
  have hkey (st : Status) (w : Word) : deviceId ((identify (nibbleStored s b q)).respond st w) =
      deviceId (nibbleStored s b q) ∧ channel ((identify (nibbleStored s b q)).respond st w) =
      channel (nibbleStored s b q) := ⟨deviceId_identify _, channel_identify _⟩
  rw [(hkey ..).1, (hkey ..).2]
  refine ⟨?stored, fun hnone => ?unknown, fun k hfirst => ?registered⟩
  case stored =>
    rw [identify_frame]
    exact storedNibble_nibbleStored s b q
  case unknown =>
    rw [identify_of_noMatch hnone, unknownSensor_nibbleStored]
    exact ⟨countedOnce_bump s.cnt.unknown, rfl, rfl, rfl⟩
  case registered =>
    rw [identify_of_firstMatch hfirst, matched_nibbleStored]
    exact ⟨rfl, rfl, rfl⟩

/-- Settles O32: the stored nibble completes the message, and the two verdicts of `Complete` are the two clauses. -/
theorem completionJudged : Obligations.CompletionJudged := by
  intro s b q hinv hen hq hsub hst hlen hlt
  have hlast : s.par.idx + 1 = s.par.mlen :=
    BitVec.eq_of_toNat_eq (octet_succ_toNat hlen (Nat.le_of_lt_succ s.par.mlen.isLt))
  have hexec := exec_feedBit_complete (b := b) hen hq hsub hst hlt hlast
  have hstored := storedNibble_nibbleStored s b q
  have hsum := checksumCalc_toNat (nibbleStored s b q)
  by_cases hok : checksumCalc (nibbleStored s b q) = checksumRecv (nibbleStored s b q)
  · rw [answered_complete_good hok, hlast] at hexec
    exact ⟨_, hexec, hstored, rfl, rfl, rfl, hsum, rfl,
      fun _ => ⟨beq_iff_eq.2 hok, countedOnce_bump s.cnt.cksOk, rfl, rfl, rfl⟩, fun hne => absurd hok hne⟩
  · rw [answered_complete_bad hok] at hexec
    exact ⟨_, hexec, hstored, rfl, rfl, rfl, hsum, rfl, fun heq => absurd heq hok,
      fun _ => ⟨beq_eq_false_iff_ne.2 hok, countedOnce_bump s.cnt.cksFail, rfl, rfl, rfl⟩⟩

end Sys2Proof.Machine
end

section
/-! SUPPORT. A message sent bit by bit, once per bit under V3 and twice under V21 (42_parser.md R224, R246, R256): where
the parser stands after each nibble, and after the first copy of the last bit. -/

namespace Sys2Proof.Machine

/-! ## Runs of operations -/

section
variable {s t : State}

theorem execAll_cons_of {i : Instr} (h : exec i s = .next t) (rest : List Instr) :
    execAll (i :: rest) s = execAll rest t := by
  simp only [execAll, h]

theorem execAll_append_of {xs : List Instr} (h : execAll xs s = .next t) (ys : List Instr) :
    execAll (xs ++ ys) s = execAll ys t := by
  induction xs generalizing s with
  | nil => simp only [execAll] at h; obtain rfl := Host.Outcome.next.inj h; rfl
  | cons i rest ih =>
    rw [List.cons_append]
    cases he : exec i s with
    | next u => simp only [execAll, he] at h ⊢; exact ih h
    | fault r => simp only [execAll, he] at h; cases h
    | refused r => simp only [execAll, he] at h; cases h

end

/-- The operations that send one bit: each bit once under V3, twice under V21 (R224). -/
def sentBit : Proto → BitVec 1 → List Instr
  | .v3, b => [.feedBit b]
  | .v21, b => [.feedBit b, .feedBit b]

/-- The operations that send a run of bits. -/
def sentBits (p : Proto) (bits : List (BitVec 1)) : List Instr := bits.flatMap (sentBit p)

theorem sentBits_append (p : Proto) (xs ys : List (BitVec 1)) :
    sentBits p (xs ++ ys) = sentBits p xs ++ sentBits p ys := List.flatMap_append

theorem execAll_sentBits_cons {s t : State} {p : Proto} {b : BitVec 1} (h : execAll (sentBit p b) s = .next t)
    (bits : List (BitVec 1)) : execAll (sentBits p (b :: bits)) s = execAll (sentBits p bits) t :=
  execAll_append_of h (sentBits p bits)

/-- The `BITPAR` that the first copy of a bit leaves (R224). -/
def firstCopyParity : Proto → BitVec 1
  | .v3 => 0
  | .v21 => 1

section
variable {s t u : State} {p : Proto} {b : BitVec 1}

theorem acceptedParity_firstCopy (hp : s.proto = p) (hb : s.par.bitpar = 0) :
    acceptedParity s (firstCopyParity p) := by
  cases p with
  | v3 => exact .inl ⟨hp, hb.symm⟩
  | v21 => exact .inr ⟨hp, hb, rfl⟩

/-- Outside `COMPLETE` the second copy of a bit only clears the parity (R224). -/
theorem exec_feedBit_secondCopy (hen : s.parEn = false) (hp : s.proto = .v21) (hb : s.par.bitpar = 1)
    (hne : s.par.state ≠ .complete) (b : BitVec 1) :
    ∃ w, exec (.feedBit b) s = .next ((s.withParity 0).respond .ok w) := by
  rcases execFeedBit_cases b s with ⟨hbusy, -⟩ | ⟨-, he⟩
  · simp [hen] at hbusy
  refine ⟨_, he.trans (congrArg (fun x : State => Host.Outcome.next (x.respond .ok _)) ?_)⟩
  rcases deliver_cases (symbolOfBit b) s with ⟨hc, -⟩ | ⟨-, hr, -⟩ | ⟨-, -, hd⟩
  · exact absurd hc hne
  · exact absurd hr (symbolOfBit_ne_resync b)
  rcases deliverBit_cases (bitOf (symbolOfBit b)) s with ⟨hv3, -⟩ | ⟨-, h0, -⟩ | ⟨-, -, hf⟩
  · simp [hp] at hv3
  · simp [hb] at h0
  · rw [hd, hf]; simp [flipParity, State.withParity, hb]

/-- A bit sent leaves what its first copy leaves, with `BITPAR` back at 0, unless the first copy completed a message. -/
theorem execAll_sentBit (hfirst : exec (.feedBit b) s = .next u) (hen : u.parEn = false) (hp : u.proto = p)
    (hb : u.par.bitpar = firstCopyParity p) (hne : u.par.state ≠ .complete) :
    ∃ r, execAll (sentBit p b) s = .next { u.withParity 0 with rsp := r } := by
  cases p with
  | v3 =>
    refine ⟨u.rsp, ?_⟩
    rw [sentBit, execAll_cons_of hfirst, execAll, State.withParity, ← show u.par.bitpar = 0 from hb]
  | v21 =>
    obtain ⟨w, hsecond⟩ := exec_feedBit_secondCopy hen hp hb hne b
    exact ⟨_, by rw [sentBit, execAll_cons_of hfirst, execAll_cons_of hsecond, execAll]; rfl⟩

/-! ## The sync nibble -/

/-- The parser while it searches for the sync nibble (R227). -/
def searching (v : Nibble) (q : BitVec 1) : Parser := ⟨.sync, v, 0, 0, q, false, 0, 0⟩

/-- The parser after an accepted bit of the search: locked by the sync nibble, else still searching (R226, R227). -/
def searched (v : Nibble) (b q : BitVec 1) : Parser :=
  if shiftBit v b = syncNibble then ⟨.ident, syncNibble, 0, 0, q, false, 0, 0⟩ else searching (shiftBit v b) q

theorem searched_bitpar (v : Nibble) (b q : BitVec 1) : (searched v b q).bitpar = q := by
  unfold searched
  split
  · rfl
  · rfl

theorem searched_ne_complete (v : Nibble) (b q : BitVec 1) : (searched v b q).state ≠ .complete := by
  unfold searched
  split
  · exact ParState.noConfusion
  · exact ParState.noConfusion

theorem searched_withParity (v : Nibble) (b q q' : BitVec 1) :
    { searched v b q with bitpar := q' } = searched v b q' := by
  unfold searched
  split
  · rfl
  · rfl

theorem exec_feedBit_search {v : Nibble} {q : BitVec 1} (hen : s.parEn = false) (hq : acceptedParity s q)
    (hpar : s.par = searching v s.par.bitpar) :
    ∃ w, exec (.feedBit b) s = .next (({ s with par := searched v b q } : State).respond .ok w) := by
  have hst : s.par.state = .sync := by rw [hpar]; rfl
  have hnib : s.par.nib = v := by rw [hpar]; rfl
  refine ⟨_, (exec_feedBit_accepted hen hq (by simp [hst])).trans
    (congrArg (fun x : State => Host.Outcome.next (x.respond .ok _)) ?_)⟩
  rcases accept_cases b (s.withParity q) { accepted := true } with
    ⟨-, hn, he⟩ | ⟨-, hn, he⟩ | ⟨h, -⟩ | ⟨h, -⟩ | h
  · rw [searched, if_pos (show shiftBit v b = syncNibble from hnib ▸ hn), he]
    simp only [State.withParity]
    rw [hpar]; rfl
  · rw [searched, if_neg (show shiftBit v b ≠ syncNibble from hnib ▸ hn), he]
    simp only [State.withParity]
    rw [hpar]; rfl
  · exact absurd h (by simp [State.withParity, hst])
  · exact absurd h (by simp [State.withParity, hst])
  · exact absurd h (by simp [State.withParity, hst])

theorem execAll_search {v : Nibble} (hp : s.proto = p) (hen : s.parEn = false) (hpar : s.par = searching v 0) :
    ∃ r, execAll (sentBit p b) s = .next { s with par := searched v b 0, rsp := r } := by
  have hb : s.par.bitpar = 0 := by rw [hpar]; rfl
  obtain ⟨w, hfirst⟩ := exec_feedBit_search (b := b) hen (acceptedParity_firstCopy hp hb) (hb ▸ hpar)
  obtain ⟨r, hsent⟩ := execAll_sentBit hfirst hen hp (searched_bitpar ..) (searched_ne_complete _ _ _)
  refine ⟨r, hsent.trans ?_⟩
  simp only [State.withParity, State.respond, searched_withParity]

/-- The sync nibble, sent from the parser's initial state, locks the parser (R227). -/
theorem execAll_syncNibble (hp : s.proto = p) (hen : s.parEn = false) (hpar : s.par = searching 0 0) :
    ∃ r, execAll (sentBits p (nibbleBits syncNibble)) s =
      .next { s with par := ⟨.ident, syncNibble, 0, 0, 0, false, 0, 0⟩, rsp := r } := by
  obtain ⟨r0, h0⟩ := execAll_search (b := 0) hp hen hpar
  obtain ⟨r1, h1⟩ := execAll_search (b := 1) (s := { s with par := searching 0 0, rsp := r0 }) hp hen rfl
  obtain ⟨r2, h2⟩ := execAll_search (b := 0) (s := { s with par := searching 8 0, rsp := r1 }) hp hen rfl
  obtain ⟨r3, h3⟩ := execAll_search (b := 1) (s := { s with par := searching 4 0, rsp := r2 }) hp hen rfl
  refine ⟨r3, ?_⟩
  rw [show nibbleBits syncNibble = [0, 1, 0, 1] by decide]
  calc execAll (sentBits p [0, 1, 0, 1]) s
      = execAll (sentBits p [1, 0, 1]) { s with par := searching 0 0, rsp := r0 } := execAll_sentBits_cons h0 _
    _ = execAll (sentBits p [0, 1]) { s with par := searching 8 0, rsp := r1 } := execAll_sentBits_cons h1 _
    _ = execAll (sentBits p [1]) { s with par := searching 4 0, rsp := r2 } := execAll_sentBits_cons h2 _
    _ = .next { s with par := ⟨.ident, syncNibble, 0, 0, 0, false, 0, 0⟩, rsp := r3 } := execAll_sentBits_cons h3 _

/-! ## The bits inside a nibble -/

/-- A state with the parser inside a nibble: `NIB`, the bit count and the response replaced, `BITPAR` at 0. -/
def midNibble (s : State) (v : Nibble) (m : BitVec 2) (r : Option Response) : State :=
  { s with par := { s.par with nib := v, sub := m, bitpar := 0 }, rsp := r }

theorem midNibble_start (hb : s.par.bitpar = 0) (hsub : s.par.sub = 0) : midNibble s s.par.nib 0 s.rsp = s := by
  rw [midNibble, ← hb, ← hsub]

/-- A bit sent that does not complete a nibble is shifted in and counted once, whatever the number of its copies. -/
theorem execAll_within {v : Nibble} {m : BitVec 2} {r : Option Response} (hp : s.proto = p) (hen : s.parEn = false)
    (hst : s.par.state = .ident ∨ s.par.state = .body) (hm : m ≠ 3) :
    ∃ r', execAll (sentBit p b) (midNibble s v m r) = .next (midNibble s (shiftBit v b) (m + 1) r') := by
  have hfirst := exec_feedBit_within (s := midNibble s v m r) (b := b) hen (acceptedParity_firstCopy hp rfl) hm hst
  obtain ⟨r', hsent⟩ := execAll_sentBit hfirst hen hp rfl (ne_complete_of_receiving hst)
  refine ⟨r', hsent.trans ?_⟩
  rw [shiftBit_eq_append]
  rfl

/-- Four shifts replace every bit of `NIB` (R226). -/
theorem shift_nibbleBits : ∀ v n : Nibble,
    n.extractLsb' 3 1 ++ (shiftBit (shiftBit (shiftBit v (n.extractLsb' 0 1)) (n.extractLsb' 1 1))
      (n.extractLsb' 2 1)).extractLsb' 1 3 = n := by
  decide

/-- The first three bits of a nibble. -/
def nibbleHead (n : Nibble) : List (BitVec 1) := [n.extractLsb' 0 1, n.extractLsb' 1 1, n.extractLsb' 2 1]

theorem nibbleBits_eq (n : Nibble) : nibbleBits n = nibbleHead n ++ [n.extractLsb' 3 1] := rfl

/-- The first three bits of a nibble leave the parser one bit short of it. -/
theorem execAll_nibbleHead (hp : s.proto = p) (hen : s.parEn = false) (hb : s.par.bitpar = 0) (hsub : s.par.sub = 0)
    (hst : s.par.state = .ident ∨ s.par.state = .body) (n : Nibble) :
    ∃ v r, execAll (sentBits p (nibbleHead n)) s = .next (midNibble s v 3 r) ∧
      nextNibble (midNibble s v 3 r) (n.extractLsb' 3 1) = n := by
  obtain ⟨r0, h0⟩ := execAll_within (b := n.extractLsb' 0 1) (v := s.par.nib) (m := 0) (r := s.rsp) hp hen hst
    (by decide)
  obtain ⟨r1, h1⟩ := execAll_within (b := n.extractLsb' 1 1) (v := shiftBit s.par.nib (n.extractLsb' 0 1)) (m := 1)
    (r := r0) hp hen hst (by decide)
  obtain ⟨r2, h2⟩ := execAll_within (b := n.extractLsb' 2 1)
    (v := shiftBit (shiftBit s.par.nib (n.extractLsb' 0 1)) (n.extractLsb' 1 1)) (m := 2) (r := r1) hp hen hst
    (by decide)
  rw [midNibble_start hb hsub] at h0
  refine ⟨_, r2, ?_, shift_nibbleBits s.par.nib n⟩
  exact (execAll_sentBits_cons h0 _).trans ((execAll_sentBits_cons h1 _).trans (execAll_sentBits_cons h2 _))

/-! ## The nibbles of a message -/

/-- A message that the parser of `s` takes in whole (R246, R287): the registered length of the slot that its identity
matches first, within the buffer. -/
structure Deliverable (s : State) (ns : List Nibble) (k : Nat) : Prop where
  idle   : s.parEn = false
  key    : firstMatch s (messageId ns (s.cfg.chIdx s.proto)) ((ns.getD (s.cfg.chIdx s.proto) 0).setWidth 8) k
  length : (s.regAt k).len.toNat = ns.length
  body   : s.cfg.idNib s.proto + 2 ≤ ns.length
  fits   : ns.length ≤ s.cfg.msgCap
  octet  : s.cfg.msgCap ≤ 255
  slot   : k < 16

theorem Inv.deliverable {ns : List Nibble} {k : Nat} (h : Inv s) (hen : s.parEn = false)
    (hkey : firstMatch s (messageId ns (s.cfg.chIdx s.proto)) ((ns.getD (s.cfg.chIdx s.proto) 0).setWidth 8) k)
    (hlen : (s.regAt k).len.toNat = ns.length) (hfits : ns.length ≤ s.cfg.msgCap) : Deliverable s ns k := by
  have hslot : k < s.regCount.toNat := hkey.1
  have hmin := h.core.registered_len hslot
  have hid := idNib_add_two_le_minLenAll s.cfg s.proto
  exact { idle := hen, key := hkey, length := hlen, body := by omega, fits := hfits, octet := h.core.msgCap_le,
          slot := h.core.slot_lt hslot }

/-- The parser at the end of nibble `m` of the message (R239, R241): identified from `ID_NIB` on. -/
def receivingPar (s : State) (k m : Nat) (v : Nibble) : Parser :=
  if m < s.cfg.idNib s.proto then ⟨.ident, v, 0, BitVec.ofNat 8 m, 0, false, 0, 0⟩
  else ⟨.body, v, 0, BitVec.ofNat 8 m, 0, true, BitVec.ofNat 4 k, (s.regAt k).len⟩

theorem receivingPar_before {k m : Nat} (h : m < s.cfg.idNib s.proto) (v : Nibble) :
    receivingPar s k m v = ⟨.ident, v, 0, BitVec.ofNat 8 m, 0, false, 0, 0⟩ := if_pos h

theorem receivingPar_from {k m : Nat} (h : s.cfg.idNib s.proto ≤ m) (v : Nibble) :
    receivingPar s k m v = ⟨.body, v, 0, BitVec.ofNat 8 m, 0, true, BitVec.ofNat 4 k, (s.regAt k).len⟩ :=
  if_neg (Nat.not_lt.2 h)

theorem receivingPar_state (s : State) (k m : Nat) (v : Nibble) :
    (receivingPar s k m v).state = .ident ∨ (receivingPar s k m v).state = .body := by
  unfold receivingPar
  split
  · exact .inl rfl
  · exact .inr rfl

theorem receivingPar_sub (s : State) (k m : Nat) (v : Nibble) : (receivingPar s k m v).sub = 0 := by
  unfold receivingPar
  split
  · rfl
  · rfl

theorem receivingPar_bitpar (s : State) (k m : Nat) (v : Nibble) : (receivingPar s k m v).bitpar = 0 := by
  unfold receivingPar
  split
  · rfl
  · rfl

theorem receivingPar_idx (s : State) (k m : Nat) (v : Nibble) : (receivingPar s k m v).idx = BitVec.ofNat 8 m := by
  unfold receivingPar
  split
  · rfl
  · rfl

theorem receivingPar_with_nib (s : State) (k m : Nat) (v n : Nibble) :
    { receivingPar s k m v with nib := n } = receivingPar s k m n := by
  unfold receivingPar
  split
  · rfl
  · rfl

/-- Only the nibble that completes the identity changes more than the index. -/
theorem receivingPar_with_idx {k m : Nat} (h : m + 1 ≠ s.cfg.idNib s.proto) (v : Nibble) :
    { receivingPar s k m v with idx := BitVec.ofNat 8 (m + 1) } = receivingPar s k (m + 1) v := by
  rcases Nat.lt_or_ge m (s.cfg.idNib s.proto) with hlt | hge
  · rw [receivingPar_before hlt, receivingPar_before (by omega)]
  · rw [receivingPar_from hge, receivingPar_from (by omega)]

/-- `s` with the sync nibble and `m` nibbles of the message received, at a nibble's boundary. -/
def receiving (s : State) (k m : Nat) (v : Nibble) (msg : Cells Nibble) (r : Option Response) : State :=
  { s with par := receivingPar s k m v, msg := msg, rsp := r }

/-- The same with three bits of the next nibble received. -/
def nibbleDue (s : State) (k m : Nat) (v : Nibble) (msg : Cells Nibble) (r : Option Response) : State :=
  { s with par := { receivingPar s k m v with sub := 3 }, msg := msg, rsp := r }

/-- `msg` holds the message's first `m` nibbles, and what `MSG` of `s` holds above them. -/
def cellsHold (s : State) (ns : List Nibble) (m : Nat) (msg : Cells Nibble) : Prop :=
  (∀ i < m, Cells.read (Config.msgPowerOn s.power) msg i = ns.getD i 0) ∧
  ∀ i ≥ m, Cells.read (Config.msgPowerOn s.power) msg i = s.msgAt i

section
variable {ns : List Nibble} {k m : Nat} {v : Nibble} {msg : Cells Nibble} {r : Option Response} {q : BitVec 1}

theorem cellsHold_zero (s : State) (ns : List Nibble) : cellsHold s ns 0 s.msg :=
  ⟨fun _ h => absurd h (Nat.not_lt_zero _), fun _ _ => rfl⟩

theorem cellsHold_write (h : cellsHold s ns m msg) : cellsHold s ns (m + 1) (Cells.write msg m (ns.getD m 0)) := by
  obtain ⟨hstored, hkept⟩ := h
  refine ⟨fun i hi => ?_, fun i hi => ?_⟩
  · by_cases him : i = m
    · subst him; exact Cells.read_write_same ..
    · rw [Cells.read_write_other _ _ _ him]; exact hstored i (by omega)
  · rw [Cells.read_write_other _ _ _ (by omega)]; exact hkept i (by omega)

theorem midNibble_receiving (s : State) (k m : Nat) (v w : Nibble) (msg : Cells Nibble) (r r' : Option Response) :
    midNibble (receiving s k m v msg r) w 3 r' = nibbleDue s k m w msg r' := by
  simp only [midNibble, receiving, nibbleDue, ← receivingPar_with_nib s k m v w, receivingPar_bitpar]

theorem execAll_nibbleHead_receiving (hp : s.proto = p) (hen : s.parEn = false) (n : Nibble) :
    ∃ w r', execAll (sentBits p (nibbleHead n)) (receiving s k m v msg r) = .next (nibbleDue s k m w msg r') ∧
      nextNibble (nibbleDue s k m w msg r') (n.extractLsb' 3 1) = n := by
  obtain ⟨w, r', he, hn⟩ := execAll_nibbleHead (s := receiving s k m v msg r) hp hen (receivingPar_bitpar ..)
    (receivingPar_sub ..) (receivingPar_state ..) n
  rw [midNibble_receiving] at he hn
  exact ⟨w, r', he, hn⟩

/-- What storing the due nibble leaves. -/
theorem nibbleStored_nibbleDue (hn : nextNibble (nibbleDue s k m v msg r) b = ns.getD m 0) (hm : m ≤ 255) :
    nibbleStored (nibbleDue s k m v msg r) b q =
      { s with par := { receivingPar s k m (ns.getD m 0) with idx := BitVec.ofNat 8 (m + 1), bitpar := q },
               msg := Cells.write msg m (ns.getD m 0), rsp := r } := by
  have hidx : (nibbleDue s k m v msg r).par.idx = BitVec.ofNat 8 m := receivingPar_idx ..
  have hnat : (BitVec.ofNat 8 m).toNat = m := by rw [BitVec.toNat_ofNat]; omega
  have hsucc : BitVec.ofNat 8 m + 1 = BitVec.ofNat 8 (m + 1) := (BitVec.ofNat_add m 1).symm
  simp only [nibbleStored, hn, hidx, hnat, hsucc]
  simp only [nibbleDue, ← receivingPar_with_nib s k m v (ns.getD m 0), receivingPar_sub]

/-- The identity read from a buffer that holds it is the message's own (R238). -/
theorem identity_of_msgAt {c : Nat} (hc : u.cfg.chIdx u.proto = c) (hat : ∀ i ≤ c, u.msgAt i = ns.getD i 0) :
    deviceId u = messageId ns c ∧ channel u = (ns.getD c 0).setWidth 8 := by
  subst hc
  refine ⟨?_, congrArg (BitVec.setWidth 8) (hat _ le_rfl)⟩
  rw [deviceId, hat _ (Nat.sub_le ..), hat _ (Nat.sub_le ..), hat _ (Nat.sub_le ..), hat _ (Nat.sub_le ..)]

theorem nibbleDue_idx_toNat (hm : m ≤ 255) : (nibbleDue s k m v msg r).par.idx.toNat = m := by
  rw [nibbleDue, receivingPar_idx, BitVec.toNat_ofNat]
  omega

theorem nibbleDue_idx_succ_toNat (hm : m + 1 ≤ 255) : ((nibbleDue s k m v msg r).par.idx + 1).toNat = m + 1 :=
  octet_succ_toNat (by rw [nibbleDue_idx_toNat (by omega)]) hm

theorem nibbleDue_state (s : State) (k m : Nat) (v : Nibble) (msg : Cells Nibble) (r : Option Response) :
    (nibbleDue s k m v msg r).par.state = .ident ∨ (nibbleDue s k m v msg r).par.state = .body :=
  receivingPar_state s k m v

/-- The last bit of the nibble that completes the identity finds the registered slot (R239, R241). -/
theorem exec_lastBit_identity (hd : Deliverable s ns k) (hc : cellsHold s ns m msg)
    (hid : m + 1 = s.cfg.idNib s.proto) (hn : nextNibble (nibbleDue s k m v msg r) b = ns.getD m 0)
    (hq : acceptedParity (nibbleDue s k m v msg r) q) :
    ∃ w, exec (.feedBit b) (nibbleDue s k m v msg r) = .next (({ s with
      par := { receivingPar s k (m + 1) (ns.getD m 0) with bitpar := q },
      msg := Cells.write msg m (ns.getD m 0), rsp := r } : State).respond .ok w) := by
  have hbody := hd.body
  have hfits := hd.fits
  have hoctet := hd.octet
  have hst : (nibbleDue s k m v msg r).par.state = .ident := by
    simp only [nibbleDue, receivingPar_before (show m < s.cfg.idNib s.proto by omega)]
  have hlt : (nibbleDue s k m v msg r).par.idx.toNat < s.cfg.msgCap := by
    rw [nibbleDue_idx_toNat (by omega)]; omega
  have hexec := exec_feedBit_identify (s := nibbleDue s k m v msg r) (b := b) hd.idle hq rfl hst hlt
    ((nibbleDue_idx_succ_toNat (by omega)).trans hid)
  have hstored := nibbleStored_nibbleDue (q := q) hn (by omega)
  have hat (i : Nat) (hi : i ≤ s.cfg.chIdx s.proto) :
      (nibbleStored (nibbleDue s k m v msg r) b q).msgAt i = ns.getD i 0 := by
    rw [hstored]
    exact (cellsHold_write hc).1 i (by rw [hid]; exact Nat.lt_succ_of_le hi)
  obtain ⟨hdev, hch⟩ := identity_of_msgAt (u := nibbleStored (nibbleDue s k m v msg r) b q) rfl hat
  have hfirst : firstMatch (nibbleStored (nibbleDue s k m v msg r) b q)
      (deviceId (nibbleStored (nibbleDue s k m v msg r) b q))
      (channel (nibbleStored (nibbleDue s k m v msg r) b q)) k := by
    rw [hdev, hch]
    exact hd.key
  refine ⟨_, hexec.trans (congrArg (fun x : State => Host.Outcome.next (x.respond .ok _)) ?_)⟩
  rw [identify_of_firstMatch hfirst, hstored, receivingPar_before (show m < s.cfg.idNib s.proto by omega),
    receivingPar_from (show s.cfg.idNib s.proto ≤ m + 1 by omega)]
  rfl

/-- The last bit of a nibble that ends neither the identity nor the message only stores it (R229). -/
theorem exec_lastBit_other (hd : Deliverable s ns k) (hm : m + 1 < ns.length) (hid : m + 1 ≠ s.cfg.idNib s.proto)
    (hn : nextNibble (nibbleDue s k m v msg r) b = ns.getD m 0) (hq : acceptedParity (nibbleDue s k m v msg r) q) :
    ∃ w, exec (.feedBit b) (nibbleDue s k m v msg r) = .next (({ s with
      par := { receivingPar s k (m + 1) (ns.getD m 0) with bitpar := q },
      msg := Cells.write msg m (ns.getD m 0), rsp := r } : State).respond .ok w) := by
  have hfits := hd.fits
  have hoctet := hd.octet
  have hsucc : ((nibbleDue s k m v msg r).par.idx + 1).toNat = m + 1 := nibbleDue_idx_succ_toNat (by omega)
  have hlt : (nibbleDue s k m v msg r).par.idx.toNat < s.cfg.msgCap := by
    rw [nibbleDue_idx_toNat (by omega)]; omega
  have hnid : ¬ ((nibbleDue s k m v msg r).par.state = .ident ∧
      ((nibbleDue s k m v msg r).par.idx + 1).toNat = s.cfg.idNib s.proto) :=
    fun h => hid (hsucc.symm.trans h.2)
  have hnlast : ¬ ((nibbleDue s k m v msg r).par.state = .body ∧
      (nibbleDue s k m v msg r).par.idx + 1 = (nibbleDue s k m v msg r).par.mlen) := by
    rintro ⟨hbody, hlast⟩
    have hge : s.cfg.idNib s.proto ≤ m := by
      by_contra hlt
      simp [nibbleDue, receivingPar_before (Nat.lt_of_not_le hlt)] at hbody
    have hmlen : (nibbleDue s k m v msg r).par.mlen = (s.regAt k).len := by
      simp only [nibbleDue, receivingPar_from hge]
    rw [hlast, hmlen, hd.length] at hsucc
    omega
  have hexec := exec_feedBit_store (s := nibbleDue s k m v msg r) (b := b) hd.idle hq rfl (nibbleDue_state ..) hlt hnid
    hnlast
  refine ⟨_, hexec.trans (congrArg (fun x : State => Host.Outcome.next (x.respond .ok _)) ?_)⟩
  rw [nibbleStored_nibbleDue hn (by omega), ← receivingPar_with_idx hid]

theorem exec_lastBit (hd : Deliverable s ns k) (hc : cellsHold s ns m msg) (hm : m + 1 < ns.length)
    (hn : nextNibble (nibbleDue s k m v msg r) b = ns.getD m 0) (hq : acceptedParity (nibbleDue s k m v msg r) q) :
    ∃ w, exec (.feedBit b) (nibbleDue s k m v msg r) = .next (({ s with
      par := { receivingPar s k (m + 1) (ns.getD m 0) with bitpar := q },
      msg := Cells.write msg m (ns.getD m 0), rsp := r } : State).respond .ok w) := by
  by_cases hid : m + 1 = s.cfg.idNib s.proto
  · exact exec_lastBit_identity hd hc hid hn hq
  · exact exec_lastBit_other hd hm hid hn hq

/-- Sending a nibble that does not end the message brings the parser to the next nibble's boundary. -/
theorem execAll_nibble (hd : Deliverable s ns k) (hp : s.proto = p) (hc : cellsHold s ns m msg) (hm : m + 1 < ns.length)
    (v : Nibble) (r : Option Response) :
    ∃ r', execAll (sentBits p (nibbleBits (ns.getD m 0))) (receiving s k m v msg r) =
      .next (receiving s k (m + 1) (ns.getD m 0) (Cells.write msg m (ns.getD m 0)) r') := by
  obtain ⟨w, r1, hhead, hn⟩ := execAll_nibbleHead_receiving (k := k) (m := m) (v := v) (msg := msg) (r := r) hp hd.idle
    (ns.getD m 0)
  have hq : acceptedParity (nibbleDue s k m w msg r1) (firstCopyParity p) :=
    acceptedParity_firstCopy hp (receivingPar_bitpar s k m w)
  obtain ⟨x, hlast⟩ := exec_lastBit hd hc hm hn hq
  obtain ⟨r2, hsent⟩ := execAll_sentBit hlast hd.idle hp rfl
    (ne_complete_of_receiving (receivingPar_state s k (m + 1) (ns.getD m 0)))
  refine ⟨r2, ?_⟩
  rw [nibbleBits_eq, sentBits_append, execAll_append_of hhead]
  refine (execAll_sentBits_cons hsent _).trans ?_
  simp only [sentBits, List.flatMap_nil, execAll, State.withParity, State.respond, receiving]
  rw [← receivingPar_bitpar s k (m + 1) (ns.getD m 0)]

theorem messageBits_take_succ (hm : m < ns.length) :
    messageBits (ns.take (m + 1)) = messageBits (ns.take m) ++ nibbleBits (ns.getD m 0) := by
  rw [List.getD_eq_getElem _ _ hm, List.take_add_one, List.getElem?_eq_getElem hm]
  simp only [messageBits, Option.toList_some, List.flatMap_cons, List.flatMap_append, List.flatMap_nil, List.append_nil,
    List.append_assoc]

/-- Where the parser stands after the sync nibble and `m` nibbles, short of the whole message. -/
theorem execAll_nibbles (hd : Deliverable s ns k) (hp : s.proto = p) (hpar : s.par = searching 0 0)
    (hm : m < ns.length) :
    ∃ v msg r, execAll (sentBits p (messageBits (ns.take m))) s = .next (receiving s k m v msg r) ∧
      cellsHold s ns m msg := by
  induction m with
  | zero =>
    obtain ⟨r, hsync⟩ := execAll_syncNibble hp hd.idle hpar
    refine ⟨syncNibble, s.msg, r, ?_, cellsHold_zero s ns⟩
    simpa [messageBits, receiving, receivingPar, Params.idNib] using hsync
  | succ m ih =>
    obtain ⟨v, msg, r, hrun, hc⟩ := ih (by omega)
    obtain ⟨r', hnibble⟩ := execAll_nibble hd hp hc hm v r
    refine ⟨ns.getD m 0, Cells.write msg m (ns.getD m 0), r', ?_, cellsHold_write hc⟩
    rw [messageBits_take_succ (by omega), sentBits_append, execAll_append_of hrun, hnibble]

/-- Everything up to the message's last bit leaves the parser one bit short of its last nibble. -/
theorem execAll_toLastBit (hd : Deliverable s ns k) (hp : s.proto = p) (hpar : s.par = searching 0 0)
    (hm : m + 1 = ns.length) :
    ∃ v msg r, execAll (sentBits p (messageBits (ns.take m) ++ nibbleHead (ns.getD m 0))) s =
        .next (nibbleDue s k m v msg r) ∧
      nextNibble (nibbleDue s k m v msg r) ((ns.getD m 0).extractLsb' 3 1) = ns.getD m 0 ∧ cellsHold s ns m msg := by
  obtain ⟨v, msg, r, hrun, hc⟩ := execAll_nibbles hd hp hpar (show m < ns.length by omega)
  obtain ⟨w, r', hhead, hn⟩ := execAll_nibbleHead_receiving (k := k) (m := m) (v := v) (msg := msg) (r := r) hp hd.idle
    (ns.getD m 0)
  exact ⟨w, msg, r', by rw [sentBits_append, execAll_append_of hrun, hhead], hn, hc⟩

theorem messageBits_eq_lastBit (hm : m + 1 = ns.length) : messageBits ns =
    messageBits (ns.take m) ++ nibbleHead (ns.getD m 0) ++ [(ns.getD m 0).extractLsb' 3 1] := by
  rw [List.append_assoc, ← nibbleBits_eq, ← messageBits_take_succ (by omega), hm, List.take_length]

/-! ## The verdict on a whole message -/

theorem range'_map_getD (ns : List Nibble) {a c : Nat} (hc : c ≤ ns.length) :
    (List.range' a (c - a)).map (fun i => ns.getD i 0) = (ns.take c).drop a := by
  refine List.ext_getElem (by simp; omega) fun i h1 h2 => ?_
  have hi : a + i < ns.length := by simp at h1; omega
  simp [List.getElem?_eq_getElem hi]

/-- The checksum over a buffer that holds the message is the message's own (R248). -/
theorem nibbleSum_of_msgAt {a c : Nat} (hc : c ≤ ns.length) (hat : ∀ i < c, u.msgAt i = ns.getD i 0) :
    nibbleSum u a c = (((ns.take c).drop a).map BitVec.toNat).sum % 256 := by
  have hsum : (Finset.Ico a c).sum (fun i => (u.msgAt i).toNat) =
      (Finset.Ico a c).sum (fun i => (ns.getD i 0).toNat) :=
    Finset.sum_congr rfl fun i hi => by rw [hat i (Finset.mem_Ico.1 hi).2]
  rw [nibbleSum, hsum, ← range'_map_getD ns hc, List.map_map]
  rfl

/-- The latch that a whole message leaves (R48, R250). -/
def messageLatch (ns : List Nibble) (k start : Nat) : Latch :=
  ⟨true, BitVec.ofNat 8 (messageSum ns start) == messageReceived ns, BitVec.ofNat 8 (messageSum ns start),
   messageReceived ns, BitVec.ofNat 4 k, BitVec.ofNat 8 ns.length⟩

theorem completionLatch_of_msgAt {a : Nat} (ha : u.cfg.idStart u.proto = a) (hslot : u.par.slot = BitVec.ofNat 4 k)
    (hlen : u.par.mlen.toNat = ns.length) (h2 : 2 ≤ ns.length) (hat : ∀ i < ns.length, u.msgAt i = ns.getD i 0) :
    completionLatch u = messageLatch ns k a ∧ checksumCalc u = BitVec.ofNat 8 (messageSum ns a) ∧
      checksumRecv u = messageReceived ns := by
  have hmlen : u.par.mlen = BitVec.ofNat 8 ns.length := by rw [← hlen, BitVec.ofNat_toNat, BitVec.setWidth_eq]
  have hcalc : checksumCalc u = BitVec.ofNat 8 (messageSum ns a) := by
    refine BitVec.eq_of_toNat_eq ?_
    rw [checksumCalc_toNat, ha, hlen, nibbleSum_of_msgAt (Nat.sub_le ..) fun i hi => hat i (by omega),
      BitVec.toNat_ofNat, Nat.mod_mod]
  have hrecv : checksumRecv u = messageReceived ns := by
    rw [checksumRecv, hlen, hat _ (by omega), hat _ (by omega)]
  exact ⟨by rw [completionLatch, messageLatch, hcalc, hrecv, hslot, hmlen], hcalc, hrecv⟩

/-- `s` holding a whole good message in `COMPLETE` (R250). -/
def messageHeld (s : State) (ns : List Nibble) (k : Nat) (q : BitVec 1) (msg : Cells Nibble) : State :=
  { s with par := ⟨.complete, ns.getD (ns.length - 1) 0, 0, BitVec.ofNat 8 ns.length, q, true, BitVec.ofNat 4 k,
                   BitVec.ofNat 8 ns.length⟩,
           msg := msg, res := messageLatch ns k (s.cfg.idStart s.proto),
           cnt := { s.cnt with cksOk := bump s.cnt.cksOk } }

/-- `s` after a whole message whose checksum did not agree (R250). -/
def messageDropped (s : State) (ns : List Nibble) (k : Nat) (q : BitVec 1) (msg : Cells Nibble) : State :=
  { s with par := restarted q, msg := msg, res := messageLatch ns k (s.cfg.idStart s.proto),
           cnt := { s.cnt with cksFail := bump s.cnt.cksFail } }

/-- The last bit of a message decides by the message's own checksum (R246, R248, R250). -/
theorem exec_finalBit (hd : Deliverable s ns k) (hc : cellsHold s ns m msg) (hm : m + 1 = ns.length)
    (hn : nextNibble (nibbleDue s k m v msg r) b = ns.getD m 0) (hq : acceptedParity (nibbleDue s k m v msg r) q) :
    ((messageLatch ns k (s.cfg.idStart s.proto)).cksOk = true →
      exec (.feedBit b) (nibbleDue s k m v msg r) =
        .next ((messageHeld s ns k q (Cells.write msg m (ns.getD m 0))).respond .ok (acceptedWord 3 b 0b11))) ∧
    (¬ (messageLatch ns k (s.cfg.idStart s.proto)).cksOk = true →
      exec (.feedBit b) (nibbleDue s k m v msg r) =
        .next ((messageDropped s ns k q (Cells.write msg m (ns.getD m 0))).respond .ok (acceptedWord 0 b 0b01))) := by
  have hbody := hd.body
  have hfits := hd.fits
  have hoctet := hd.octet
  have hmlen : (s.regAt k).len = BitVec.ofNat 8 (m + 1) := by
    rw [hm, ← hd.length, BitVec.ofNat_toNat, BitVec.setWidth_eq]
  have hpar (w : Nibble) : receivingPar s k m w =
      ⟨.body, w, 0, BitVec.ofNat 8 m, 0, true, BitVec.ofNat 4 k, BitVec.ofNat 8 (m + 1)⟩ :=
    hmlen ▸ receivingPar_from (by omega) w
  have hst : (nibbleDue s k m v msg r).par.state = .body := by simp only [nibbleDue, hpar]
  have hlt : (nibbleDue s k m v msg r).par.idx.toNat < s.cfg.msgCap := by
    rw [nibbleDue_idx_toNat (by omega)]; omega
  have hlast : (nibbleDue s k m v msg r).par.idx + 1 = (nibbleDue s k m v msg r).par.mlen := by
    simp only [nibbleDue, hpar]
    exact (BitVec.ofNat_add m 1).symm
  have hexec := exec_feedBit_complete (s := nibbleDue s k m v msg r) (b := b) hd.idle hq rfl hst hlt hlast
  have hstored := nibbleStored_nibbleDue (q := q) hn (by omega)
  have hat (i : Nat) (hi : i < ns.length) : (nibbleStored (nibbleDue s k m v msg r) b q).msgAt i = ns.getD i 0 := by
    rw [hstored]
    exact (cellsHold_write hc).1 i (by omega)
  obtain ⟨hlatch, hcalc, hrecv⟩ := completionLatch_of_msgAt (u := nibbleStored (nibbleDue s k m v msg r) b q) (k := k)
    (a := s.cfg.idStart s.proto) rfl (by simp only [hstored, hpar])
    (by simp only [hstored, hpar, ← hmlen]; exact hd.length) (by omega) hat
  rw [hexec]
  refine ⟨fun hgood => ?_, fun hbad => ?_⟩
  · rw [answered_complete_good (by rw [hcalc, hrecv]; exact beq_iff_eq.1 hgood), hlatch, hstored, hn, hlast]
    simp only [nibbleDue, messageHeld, hpar, ← hm, Nat.add_sub_cancel, State.respond]
  · rw [answered_complete_bad (by rw [hcalc, hrecv]; exact mt beq_iff_eq.2 hbad), hlatch, hstored]
    rfl

theorem ofNat_messageSum_eq_iff (ns : List Nibble) (a : Nat) (x : Octet) :
    BitVec.ofNat 8 (messageSum ns a) = x ↔ messageSum ns a = x.toNat := by
  have hlt : messageSum ns a < 256 := Nat.mod_lt _ (by decide)
  rw [← BitVec.toNat_inj, BitVec.toNat_ofNat, Nat.mod_eq_of_lt hlt]

theorem messageLatch_cksOk_iff (ns : List Nibble) (k a : Nat) :
    (messageLatch ns k a).cksOk = true ↔ messageSum ns a = (messageReceived ns).toNat :=
  beq_iff_eq.trans (ofNat_messageSum_eq_iff ns a _)

/-- What a state shows of a message taken in whole, whatever the verdict (R47, R48, R229). -/
theorem message_shown (hd : Deliverable s ns k) (hc : cellsHold s ns ns.length msg) {a : Nat}
    (hpower : t.power = s.power) (hmsg : t.msg = msg) (hres : t.res = messageLatch ns k a) :
    (∀ i < ns.length, t.msgAt i = ns.getD i 0) ∧ (∀ i ≥ ns.length, t.msgAt i = s.msgAt i) ∧ t.res.done = true ∧
      t.res.slot.toNat = k ∧ t.res.len.toNat = ns.length ∧ t.res.computed.toNat = messageSum ns a ∧
      t.res.received = messageReceived ns := by
  have hfits := hd.fits
  have hoctet := hd.octet
  have hslot := hd.slot
  have hread (i : Nat) : t.msgAt i = Cells.read (Config.msgPowerOn s.power) msg i := by
    rw [State.msgAt, hpower, hmsg]
  rw [hres]
  obtain ⟨hstored, hkept⟩ := hc
  refine ⟨fun i hi => (hread i).trans (hstored i hi), fun i hi => (hread i).trans (hkept i hi), rfl, ?slot, ?length,
    ?sum, rfl⟩
  case slot => exact (BitVec.toNat_ofNat ..).trans (Nat.mod_eq_of_lt (by omega))
  case length => exact (BitVec.toNat_ofNat ..).trans (Nat.mod_eq_of_lt (by omega))
  case sum => exact ((ofNat_messageSum_eq_iff ns a _).1 rfl).symm

/-- In `COMPLETE` a fed bit is discarded and counted (R221). -/
theorem exec_feedBit_discard (hen : s.parEn = false) (hst : s.par.state = .complete) (b : BitVec 1) :
    ∃ w, exec (.feedBit b) s = .next (s.countDiscard.respond .ok w) := by
  rcases execFeedBit_cases b s with ⟨hbusy, -⟩ | ⟨-, he⟩
  · simp [hen] at hbusy
  rcases deliver_cases (symbolOfBit b) s with ⟨-, hd⟩ | ⟨hne, -⟩ | ⟨hne, -⟩
  · exact ⟨_, by rw [he, hd]⟩
  · exact absurd hst hne
  · exact absurd hst hne

/-- A whole message under V21 ends on the two copies of its last bit. -/
theorem execAll_message_v21 {t' : State}
    (hrun : execAll (sentBits .v21 (messageBits (ns.take m) ++ nibbleHead (ns.getD m 0))) s = .next u)
    (hm : m + 1 = ns.length) (hfirst : exec (.feedBit ((ns.getD m 0).extractLsb' 3 1)) u = .next t)
    (hsecond : exec (.feedBit ((ns.getD m 0).extractLsb' 3 1)) t = .next t') :
    execAll ((messageBits ns).flatMap fun b => [.feedBit b, .feedBit b]) s = .next t' := by
  change execAll (sentBits .v21 (messageBits ns)) s = .next t'
  rw [messageBits_eq_lastBit hm, sentBits_append, execAll_append_of hrun]
  change execAll [.feedBit _, .feedBit _] u = .next t'
  rw [execAll_cons_of hfirst, execAll_cons_of hsecond, execAll]

end
end

/-- Settles O39: the first copy of the last bit judges the message; in `COMPLETE` the second copy is discarded and
counted, after a wrong checksum it only clears `BITPAR`. -/
theorem wholeMessageV21 : Obligations.WholeMessageV21 := by
  intro s ns k good hinv hen hproto hpar hkey hlen hfits hgood
  have hd : Deliverable s ns k := hinv.deliverable hen (by rw [hproto]; exact hkey) hlen hfits
  rw [← hproto] at hgood ⊢
  obtain ⟨m, hm⟩ : ∃ m, m + 1 = ns.length := ⟨ns.length - 1, by have := hd.body; omega⟩
  obtain ⟨v, msg, r, hrun, hn, hc⟩ := execAll_toLastBit hd hproto hpar hm
  have hcells : cellsHold s ns ns.length (Cells.write msg m (ns.getD m 0)) := hm ▸ cellsHold_write hc
  have hfirst := exec_finalBit hd hc hm hn (acceptedParity_firstCopy (p := .v21) hproto (receivingPar_bitpar s k m v))
  have hcks := messageLatch_cksOk_iff ns k (s.cfg.idStart s.proto)
  rw [← hcks] at hgood
  by_cases hg : good
  · have hok := hgood.1 hg
    obtain ⟨w, hsecond⟩ := exec_feedBit_discard (s := (messageHeld s ns k 1 _).respond .ok _) hen rfl _
    obtain ⟨hstored, hkept, hdone, hslot, hlength, hcomputed, hreceived⟩ :=
      message_shown (t := messageHeld s ns k 1 _) hd hcells rfl rfl rfl
    refine ⟨_, execAll_message_v21 hrun hm (hfirst.1 hok) hsecond, hstored, hkept, hdone, hslot, hlength, hcomputed,
      hreceived, fun _ => ?held, fun hbad => absurd hg hbad, rfl⟩
    exact ⟨hok, rfl, countedOnce_bump s.cnt.cksOk, countedOnce_bump s.cnt.discard, rfl⟩
  · have hbad : ¬ (messageLatch ns k (s.cfg.idStart s.proto)).cksOk = true := mt hgood.2 hg
    obtain ⟨w, hsecond⟩ := exec_feedBit_secondCopy (s := (messageDropped s ns k 1 _).respond .ok _) hen hproto rfl
      ParState.noConfusion _
    obtain ⟨hstored, hkept, hdone, hslot, hlength, hcomputed, hreceived⟩ :=
      message_shown (t := messageDropped s ns k 1 _) hd hcells rfl rfl rfl
    refine ⟨_, execAll_message_v21 hrun hm (hfirst.2 hbad) hsecond, hstored, hkept, hdone, hslot, hlength, hcomputed,
      hreceived, fun hgood => absurd hgood hg, fun _ => ?dropped, rfl⟩
    exact ⟨rfl, Bool.eq_false_of_not_eq_true hbad, countedOnce_bump s.cnt.cksFail, rfl⟩

end Sys2Proof.Machine
end

section
/-! SUPPORT. The CSR view (10_state.md R55) and `RD_CSR` (44_control.md R328). -/

namespace Sys2Proof.Machine

/-- The numbers of the CSR view (R55). -/
abbrev inCsrView (n : Octet) : Prop := n ≤ 0x0A ∨ 0x10 ≤ n ∧ n ≤ 0x17 ∨ 0x1B ≤ n ∧ n ≤ 0x1F

theorem inCsrView_iff (n : Octet) : inCsrView n ↔
    n.toNat ≤ 0x0A ∨ 0x10 ≤ n.toNat ∧ n.toNat ≤ 0x17 ∨ 0x1B ≤ n.toNat ∧ n.toNat ≤ 0x1F := Iff.rfl

/-- The view answers exactly at its numbers; every other number is reserved (R55). -/
theorem csrView_eq_none_iff (s : State) (n : Octet) : csrView s n = none ↔ ¬ inCsrView n := by
  rw [inCsrView_iff]
  unfold csrView
  split
  case h_25 => simp only [imp_false, true_iff] at *; omega
  all_goals simp only [reduceCtorEq, false_iff, not_not]; omega

section
variable {s : State} {n : Octet}

theorem exec_rdCsr_reserved (h : ¬ inCsrView n) : exec (.rdCsr n) s = .next (s.respond .badarg 0) := by
  simp only [exec, execRdCsr, (csrView_eq_none_iff s n).2 h, raise]

theorem exec_rdCsr_inView (h : inCsrView n) : exec (.rdCsr n) s = .next (s.respond .ok ((csrView s n).getD 0)) := by
  obtain ⟨w, hw⟩ := Option.ne_none_iff_exists'.1 (mt (csrView_eq_none_iff s n).1 (not_not_intro h))
  simp only [exec, execRdCsr, hw, done, Option.getD_some]

/-! ## The layouts of R55 -/

theorem zeroExtended_toNat {m : Nat} (k : Nat) (x : BitVec m) : (0#k ++ x).toNat = x.toNat := by
  simp [BitVec.toNat_append]

theorem encode_rdCsr_toNat (n : Octet) : (encode (.rdCsr n)).toNat = 0x08000000 + n.toNat := by
  have hor := Nat.shiftLeft_add_eq_or_of_lt n.isLt 0x080000
  simpa [encode, @BitVec.toNat_append 24 8] using hor.symm

theorem statusWord_layout (s : State) :
    (statusWord s).extractLsb' 10 22 = 0 ∧ (statusWord s).extractLsb' 8 2 = parStateCode s.par.state ∧
    (statusWord s).getLsbD 7 = s.res.cksOk ∧ (statusWord s).getLsbD 6 = s.res.done ∧
    (statusWord s).getLsbD 5 = s.bqOvf ∧ (statusWord s).getLsbD 4 = s.pqOvf ∧
    ((statusWord s).getLsbD 3 = true ↔ s.bq.cnt.toNat = s.cfg.bqCap) ∧
    ((statusWord s).getLsbD 2 = true ↔ s.bq.cnt = 0) ∧
    ((statusWord s).getLsbD 1 = true ↔ s.pq.cnt.toNat = s.cfg.pqCap) ∧
    ((statusWord s).getLsbD 0 = true ↔ s.pq.cnt = 0) := by
  simp [statusWord, Queue.isFull, Queue.isEmpty,
    @BitVec.extractLsb'_append_eq_ite 31 1, @BitVec.extractLsb'_append_eq_ite 30 1,
    @BitVec.extractLsb'_append_eq_ite 29 1, @BitVec.extractLsb'_append_eq_ite 28 1,
    @BitVec.extractLsb'_append_eq_ite 27 1, @BitVec.extractLsb'_append_eq_ite 26 1,
    @BitVec.extractLsb'_append_eq_ite 25 1, @BitVec.extractLsb'_append_eq_ite 24 1,
    @BitVec.extractLsb'_append_eq_ite 22 2,
    @BitVec.getElem_append 31 1, @BitVec.getElem_append 30 1, @BitVec.getElem_append 29 1,
    @BitVec.getElem_append 28 1, @BitVec.getElem_append 27 1, @BitVec.getElem_append 26 1,
    @BitVec.getElem_append 25 1, @BitVec.getElem_append 24 1]

theorem decStateWord_layout (s : State) :
    (decStateWord s).extractLsb' 3 29 = 0 ∧ (decStateWord s).getLsbD 2 = s.dec.first ∧
    (decStateWord s).extractLsb' 1 1 = s.dec.hc ∧ (decStateWord s).extractLsb' 0 1 = s.dec.cur := by
  simp [decStateWord, @BitVec.extractLsb'_append_eq_ite 31 1, @BitVec.extractLsb'_append_eq_ite 30 1,
    @BitVec.extractLsb'_append_eq_ite 29 1, @BitVec.getElem_append 31 1, @BitVec.getElem_append 30 1,
    @BitVec.getElem_append 29 1]

theorem parStateWord_layout (s : State) :
    (parStateWord s).extractLsb' 24 8 = s.par.mlen ∧ (parStateWord s).extractLsb' 22 2 = 0 ∧
    (parStateWord s).extractLsb' 18 4 = s.par.slot ∧ (parStateWord s).getLsbD 17 = s.par.matchv ∧
    (parStateWord s).extractLsb' 16 1 = s.par.bitpar ∧ (parStateWord s).extractLsb' 8 8 = s.par.idx ∧
    (parStateWord s).extractLsb' 6 2 = s.par.sub ∧ (parStateWord s).extractLsb' 2 4 = s.par.nib ∧
    (parStateWord s).extractLsb' 0 2 = parStateCode s.par.state := by
  simp [parStateWord, @BitVec.extractLsb'_append_eq_ite 30 2, @BitVec.extractLsb'_append_eq_ite 26 4,
    @BitVec.extractLsb'_append_eq_ite 24 2, @BitVec.extractLsb'_append_eq_ite 16 8,
    @BitVec.extractLsb'_append_eq_ite 15 1, @BitVec.extractLsb'_append_eq_ite 14 1,
    @BitVec.extractLsb'_append_eq_ite 10 4, @BitVec.extractLsb'_append_eq_ite 8 2,
    @BitVec.getElem_append 30 2, @BitVec.getElem_append 26 4, @BitVec.getElem_append 24 2,
    @BitVec.getElem_append 16 8, @BitVec.getElem_append 15 1, @BitVec.getElem_append 14 1]

theorem resultWord_layout (s : State) :
    (resultWord s).extractLsb' 24 8 = s.res.len ∧ (resultWord s).extractLsb' 20 4 = 0 ∧
    (resultWord s).extractLsb' 16 4 = s.res.slot ∧ (resultWord s).extractLsb' 8 8 = s.res.received ∧
    (resultWord s).extractLsb' 0 8 = s.res.computed := by
  simp [resultWord, @BitVec.extractLsb'_append_eq_ite 24 8, @BitVec.extractLsb'_append_eq_ite 16 8,
    @BitVec.extractLsb'_append_eq_ite 12 4, @BitVec.extractLsb'_append_eq_ite 8 4]

/-- The two cursors of a queue, as `PQ_PTRS` and `BQ_PTRS` hold them (R55). -/
theorem cursorsWord_layout (rd wr : Octet) :
    let w : Word := 0#16 ++ rd ++ wr
    w.extractLsb' 16 16 = 0 ∧ w.extractLsb' 8 8 = rd ∧ w.extractLsb' 0 8 = wr := by
  simp [@BitVec.extractLsb'_append_eq_ite 24 8, @BitVec.extractLsb'_append_eq_ite 16 8]

theorem params1Word_layout {c : Params} (h21 : c.chIdxV21 ≤ 255) (h3 : c.chIdxV3 ≤ 255) (hf : c.maxFields ≤ 255) :
    (params1Word c).extractLsb' 25 7 = 0 ∧ (params1Word c).extractLsb' 24 1 = c.initBit ∧
    ((params1Word c).extractLsb' 16 8).toNat = c.chIdxV21 ∧ ((params1Word c).extractLsb' 8 8).toNat = c.chIdxV3 ∧
    ((params1Word c).extractLsb' 0 8).toNat = c.maxFields := by
  simp (disch := omega) [params1Word, Nat.mod_eq_of_lt,
    @BitVec.extractLsb'_append_eq_ite 24 8, @BitVec.extractLsb'_append_eq_ite 16 8,
    @BitVec.extractLsb'_append_eq_ite 8 8, @BitVec.extractLsb'_append_eq_ite 7 1]

theorem params0Word_layout {c : Params} (hr : c.regCap ≤ 255) (hm : c.msgCap ≤ 255) (hb : c.bqCap ≤ 255)
    (hp : c.pqCap ≤ 255) :
    ((params0Word c).extractLsb' 24 8).toNat = c.regCap ∧ ((params0Word c).extractLsb' 16 8).toNat = c.msgCap ∧
    ((params0Word c).extractLsb' 8 8).toNat = c.bqCap ∧ ((params0Word c).extractLsb' 0 8).toNat = c.pqCap := by
  simp (disch := omega) [params0Word, Nat.mod_eq_of_lt,
    @BitVec.extractLsb'_append_eq_ite 24 8, @BitVec.extractLsb'_append_eq_ite 16 8,
    @BitVec.extractLsb'_append_eq_ite 8 8]

/-- A pulse-window parameter that R9 admits fits its 24 bits (R55). -/
theorem windowWord_toNat {t : Nat} (h : t ≤ 2 ^ 24 - 1) : (0#8 ++ BitVec.ofNat 24 t).toNat = t := by
  rw [zeroExtended_toNat, BitVec.toNat_ofNat]
  omega

end

/-- Settles O51: a number outside the view is refused, and each number of the view has its word's layout. -/
theorem rdCsrView : Obligations.RdCsrView := by
  intro s n
  refine ⟨encode_rdCsr_toNat n, exec_rdCsr_reserved, fun hview => ⟨(csrView s n).getD 0, exec_rdCsr_inView hview, ?_⟩⟩
  refine ⟨?ctrl, ?status, ?pqCount, ?bqCount, ?decoder, ?parser, ?result, ?idStage, ?regCount, ?pqCursors, ?bqCursors,
    ?pqOvf, ?bqOvf, ?resync, ?unknown, ?cksFail, ?cksOk, ?bufOvf, ?discard, fun hvalid => ?params⟩
  case ctrl => rintro rfl; exact zeroExtended_toNat 28 s.ctrl
  case status => rintro rfl; exact statusWord_layout s
  case pqCount => rintro rfl; exact zeroExtended_toNat 24 s.pq.cnt
  case bqCount => rintro rfl; exact zeroExtended_toNat 24 s.bq.cnt
  case decoder => rintro rfl; exact decStateWord_layout s
  case parser => rintro rfl; exact parStateWord_layout s
  case result => rintro rfl; exact resultWord_layout s
  case idStage => rintro rfl; rfl
  case regCount => rintro rfl; exact zeroExtended_toNat 27 s.regCount
  case pqCursors => rintro rfl; exact cursorsWord_layout s.pq.rd s.pq.wr
  case bqCursors => rintro rfl; exact cursorsWord_layout s.bq.rd s.bq.wr
  case pqOvf => rintro rfl; exact zeroExtended_toNat 16 s.cnt.pqOvf
  case bqOvf => rintro rfl; exact zeroExtended_toNat 16 s.cnt.bqOvf
  case resync => rintro rfl; exact zeroExtended_toNat 16 s.cnt.resync
  case unknown => rintro rfl; exact zeroExtended_toNat 16 s.cnt.unknown
  case cksFail => rintro rfl; exact zeroExtended_toNat 16 s.cnt.cksFail
  case cksOk => rintro rfl; exact zeroExtended_toNat 16 s.cnt.cksOk
  case bufOvf => rintro rfl; exact zeroExtended_toNat 16 s.cnt.bufOvf
  case discard => rintro rfl; exact zeroExtended_toNat 16 s.cnt.discard
  case params =>
    obtain ⟨⟨-, hpq⟩, ⟨-, hbq⟩, -, ⟨hmin, hmsg⟩, ⟨-, hreg⟩, hfields, -, hsplit, hlong, hmax⟩ := hvalid
    obtain ⟨hv3, hv21⟩ := (minLenAll_le_iff s.cfg s.cfg.msgCap).1 hmin
    refine ⟨?tMax, ?tSplit, ?tMin, ?params1, ?params0⟩
    case tMax => rintro rfl; exact windowWord_toNat hmax
    case tSplit => rintro rfl; exact windowWord_toNat (by omega)
    case tMin => rintro rfl; exact windowWord_toNat (by omega)
    case params1 => rintro rfl; exact params1Word_layout (by omega) (by omega) (by omega)
    case params0 => rintro rfl; exact params0Word_layout (by omega) hmsg hbq hpq

end Sys2Proof.Machine
end

section
/-! SUPPORT. Reads do not observe the response (20_memory.md R87), and a step performs its turn (R89). -/

namespace Sys2Proof.Machine

/-! ## What a read consults -/

section
variable (s : State) (st : Status) (w : Word)

@[simp] theorem State.respond_respond (st' : Status) (w' : Word) :
    (s.respond st w).respond st' w' = s.respond st' w' := rfl

@[simp] theorem done_respond (w' : Word) : done (s.respond st w) w' = done s w' := rfl

@[simp] theorem raise_respond (st' : Status) : raise (s.respond st w) st' = raise s st' := rfl

/-- No CSR of the view shows the response (R55). -/
@[simp] theorem csrView_respond (n : Octet) : csrView (s.respond st w) n = csrView s n := rfl

@[simp] theorem msgInRange_respond (i : Octet) : msgInRange (s.respond st w) i = msgInRange s i := rfl

@[simp] theorem slotInRange_respond (k : BitVec 4) (v : BitVec 5) :
    slotInRange (s.respond st w) k v = slotInRange s k v := rfl

@[simp] theorem regLookup_respond (id : Word) (ch : Octet) : regLookup (s.respond st w) id ch = regLookup s id ch := rfl

/-- A read does not observe the response a state holds (R87). -/
theorem exec_read_of_respond {i : Instr}
    (hi : (∃ n, i = .rdCsr n) ∨ (∃ n, i = .rdMsg n) ∨ (∃ k v, i = .rdSlot k v) ∨ (∃ c, i = .lookup c)) :
    exec i (s.respond st w) = exec i s := by
  rcases hi with ⟨n, rfl⟩ | ⟨n, rfl⟩ | ⟨k, v, rfl⟩ | ⟨c, rfl⟩
  · simp only [exec, execRdCsr, csrView_respond, raise_respond, done_respond]
  · cases hr : msgInRange s n <;> simp [exec, execRdMsg, hr]
  · cases hr : slotInRange s k v <;> simp [exec, execRdSlot, hr]
  · simp only [exec, execLookup, regLookup_respond, State.respond_idStage, done_respond]

end

/-- Settles O54: the read only responds, and reading again does not observe that response. -/
theorem readsChangeNothing : Obligations.ReadsChangeNothing := by
  intro s i hi
  obtain ⟨st, w, hread⟩ := exec_read_respond hi s
  have hagain : exec i (s.respond st w) = .next (s.respond st w) := (exec_read_of_respond s st w hi).trans hread
  exact ⟨s.respond st w, hread, rfl, hagain⟩

/-! ## The turn of a step -/

section
variable {s : State} {rest : List Turn}

theorem step_of_turns_cons {t : Turn} (hvalid : s.cfg.valid) (ht : s.turns = t :: rest) :
    step s = runTurn t { s with turns := rest } := by
  simp only [step, if_pos hvalid, nextTurn, ht]

/-- With no turn left the step is ENGINE's, the model's choice (log 2). -/
theorem step_of_turns_nil (hvalid : s.cfg.valid) (ht : s.turns = []) : step s = .next (engineStep s) := by
  simp only [step, if_pos hvalid, nextTurn, ht, runTurn]

/-- A word that decodes runs its operation (R113). -/
theorem runTurn_host_of_decode {w : Word} {i : Instr} (hw : decodeCommand w = .ok i) (s : State) :
    runTurn (.host w) s = exec i s := by
  simp only [runTurn, runCommand, hw]

/-- A transfer on the pulse port is `PUSH_PULSE` (R125). -/
theorem runTurn_edge (d : Pulse) (s : State) : runTurn (.edge d) s = exec (.pushPulse d) s := rfl

theorem runTurn_engine (s : State) : runTurn .engine s = .next (engineStep s) := rfl

end

/-- Settles O6: one clause for each agent's turn, and one for no turn left. -/
theorem stepRunsTurn : Obligations.StepRunsTurn := by
  intro s rest hvalid
  refine ⟨fun w i ht hw => ?host, fun d ht => ?edge, fun ht => ?engine, step_of_turns_nil hvalid⟩
  case host => rw [step_of_turns_cons hvalid ht, runTurn_host_of_decode hw]
  case edge => rw [step_of_turns_cons hvalid ht, runTurn_edge]
  case engine => rw [step_of_turns_cons hvalid ht, runTurn_engine]

end Sys2Proof.Machine
end

section
/-! SUPPORT. The opcode map R114 as a two-way code (30_encoding.md R111 to R116): its rows cover every bit of their
words but the operand fields of R112, so a word selects its row by its opcode and is put together again from its
fields. -/

namespace Sys2Proof

/-! ## Stretches of a word -/

section
variable {w mask pat : Word}

/-- A stretch of a word that a row's mask covers is the row's pattern's (R114). -/
theorem covered_eq_pat (h : w &&& mask = pat) (start len : Nat)
    (hmask : mask.extractLsb' start len = BitVec.allOnes len) :
    w.extractLsb' start len = pat.extractLsb' start len := by
  rw [← h, BitVec.extractLsb'_and, hmask, BitVec.and_allOnes]

/-- A stretch of a word, put together from its upper and its lower part. -/
theorem stretch_eq_append (start n : Nat) {m : Nat} {p : BitVec m} {q : BitVec n}
    (hp : w.extractLsb' (start + n) m = p) (hq : w.extractLsb' start n = q) :
    w.extractLsb' start (m + n) = p ++ q := by
  rw [← hp, ← hq, BitVec.extractLsb'_append_extractLsb'_eq_extractLsb' rfl]

end

/-! ## The rows of the opcode map -/

/-- Row number and opcode are the same (R114): every mask covers the opcode, where the pattern holds the number. -/
theorem opcodeTable_opcode : ∀ n : Fin 17,
    (opcodeTable[n.val]'n.isLt).mask.extractLsb' 24 8 = BitVec.allOnes 8 ∧
    opcodeOf (opcodeTable[n.val]'n.isLt).pat = n.val := by
  decide

theorem opcodeOf_of_selects {n : Nat} {r : Row} {w : Word} (hr : opcodeTable[n]? = some r)
    (h : w &&& r.mask = r.pat) : opcodeOf w = n := by
  obtain ⟨hn, rfl⟩ := List.getElem?_eq_some_iff.1 hr
  obtain ⟨hmask, hpat⟩ := opcodeTable_opcode ⟨n, hn⟩
  rw [opcodeOf, covered_eq_pat h 24 8 hmask]
  exact hpat

/-- The words a row selects are those of the operations it builds: its mask leaves out the operand fields only. -/
def Row.reassembles (r : Row) : Prop := ∀ w : Word, w &&& r.mask = r.pat → encode (r.build w) = w

/-- An operation whose word agrees with `w` in the one stretch that is the whole word. -/
theorem encode_eq_of_whole {w : Word} {i : Instr} (h : w.extractLsb' 0 32 = encode i) : encode i = w := by
  rw [← h, BitVec.extractLsb'_eq_self]

/-- Row by row: the reserved bits and the opcode come from the pattern, the fields from the word. -/
theorem opcodeTable_reassembles : ∀ r ∈ opcodeTable, r.reassembles := by
  simp only [opcodeTable, List.forall_mem_append, List.forall_mem_cons, List.not_mem_nil, false_imp_iff,
    implies_true, and_true]
  refine ⟨⟨?nop, ?pushPulse, ?decStep, ?parseStep, ?popSymbol, ?feedBit, ?reset, ?wrCtrl⟩,
    ?rdCsr, ?rdMsg, ?loadIdLo, ?loadIdHi, ?setField, ?regAdd, ?rdSlot, ?clrCnt, ?lookup⟩ <;>
    intro w h <;> refine encode_eq_of_whole ?_
  case nop | decStep | parseStep | popSymbol | clrCnt => exact covered_eq_pat h 0 32 rfl
  case pushPulse => exact stretch_eq_append 0 24 (covered_eq_pat h 24 8 rfl) rfl
  case feedBit => exact stretch_eq_append 0 1 (covered_eq_pat h 1 31 rfl) rfl
  case reset => exact stretch_eq_append 0 2 (covered_eq_pat h 2 30 rfl) rfl
  case wrCtrl => exact stretch_eq_append 0 4 (covered_eq_pat h 4 28 rfl) rfl
  case rdCsr | rdMsg | lookup => exact stretch_eq_append 0 8 (covered_eq_pat h 8 24 rfl) rfl
  case loadIdLo | loadIdHi => exact stretch_eq_append 0 16 (covered_eq_pat h 16 16 rfl) rfl
  case setField =>
    have hk := stretch_eq_append 16 4 (covered_eq_pat h 20 12 rfl) rfl
    exact stretch_eq_append 0 8 (stretch_eq_append 8 8 hk rfl) rfl
  case regAdd =>
    have hf := stretch_eq_append 16 5 (covered_eq_pat h 21 11 rfl) rfl
    exact stretch_eq_append 0 8 (stretch_eq_append 8 8 hf rfl) rfl
  case rdSlot =>
    have hs := stretch_eq_append 16 4 (covered_eq_pat h 20 12 rfl) rfl
    exact stretch_eq_append 0 5 (stretch_eq_append 5 11 hs (covered_eq_pat h 5 11 rfl)) rfl

/-- Every operation's word selects the operation's own row. -/
theorem encode_selects (i : Instr) : Laws.TableRow.Statement i := by
  cases i with
  | nop => exact Laws.TableRow.nop
  | pushPulse d => exact Laws.TableRow.pushPulse d
  | decStep => exact Laws.TableRow.decStep
  | parseStep => exact Laws.TableRow.parseStep
  | popSymbol => exact Laws.TableRow.popSymbol
  | feedBit b => exact Laws.TableRow.feedBit b
  | reset m => exact Laws.TableRow.reset m
  | wrCtrl c => exact Laws.TableRow.wrCtrl c
  | rdCsr n => exact Laws.TableRow.rdCsr n
  | rdMsg i => exact Laws.TableRow.rdMsg i
  | loadIdLo h => exact Laws.TableRow.loadIdLo h
  | loadIdHi h => exact Laws.TableRow.loadIdHi h
  | setField k s e => exact Laws.TableRow.setField k s e
  | regAdd f l c => exact Laws.TableRow.regAdd f l c
  | rdSlot s w => exact Laws.TableRow.rdSlot s w
  | clrCnt => exact Laws.TableRow.clrCnt
  | lookup c => exact Laws.TableRow.lookup c

theorem opcodeOf_encode (i : Instr) : opcodeOf (encode i) = i.opcode := by
  obtain ⟨r, hr, hsel⟩ := encode_selects i
  exact opcodeOf_of_selects hr hsel

/-- A row reads back the fields that the operation's word was laid out from (R112). -/
theorem build_encode (i : Instr) {r : Row} (hr : opcodeTable[i.opcode]? = some r) : r.build (encode i) = i := by
  cases i <;> obtain rfl := Option.some.inj hr
  case nop | decStep | parseStep | popSymbol | clrCnt => rfl
  case pushPulse d => exact congrArg Instr.pushPulse BitVec.extractLsb'_append_eq_right
  case feedBit b => exact congrArg Instr.feedBit BitVec.extractLsb'_append_eq_right
  case reset m => exact congrArg Instr.reset BitVec.extractLsb'_append_eq_right
  case wrCtrl c => exact congrArg Instr.wrCtrl BitVec.extractLsb'_append_eq_right
  case rdCsr n => exact congrArg Instr.rdCsr BitVec.extractLsb'_append_eq_right
  case rdMsg i => exact congrArg Instr.rdMsg BitVec.extractLsb'_append_eq_right
  case loadIdLo h => exact congrArg Instr.loadIdLo BitVec.extractLsb'_append_eq_right
  case loadIdHi h => exact congrArg Instr.loadIdHi BitVec.extractLsb'_append_eq_right
  case lookup c => exact congrArg Instr.lookup BitVec.extractLsb'_append_eq_right
  case setField k s e =>
    simp only [encode, @BitVec.extractLsb'_append_eq_right 24 8, @BitVec.extractLsb'_append_eq_of_le 24 8,
      @BitVec.extractLsb'_append_eq_right 16 8, @BitVec.extractLsb'_append_eq_of_le 16 8,
      @BitVec.extractLsb'_append_eq_right 12 4, Nat.reduceLeDiff, Nat.reduceSub]
  case regAdd f l c =>
    simp only [encode, @BitVec.extractLsb'_append_eq_right 24 8, @BitVec.extractLsb'_append_eq_of_le 24 8,
      @BitVec.extractLsb'_append_eq_right 16 8, @BitVec.extractLsb'_append_eq_of_le 16 8,
      @BitVec.extractLsb'_append_eq_right 11 5, Nat.reduceLeDiff, Nat.reduceSub]
  case rdSlot s w =>
    simp only [encode, @BitVec.extractLsb'_append_eq_right 27 5, @BitVec.extractLsb'_append_eq_of_le 27 5,
      @BitVec.extractLsb'_append_eq_of_le 16 11, @BitVec.extractLsb'_append_eq_right 12 4,
      Nat.reduceLeDiff, Nat.reduceSub]

/-! ## The two decoders -/

/-- A word decodes to what its opcode's row builds from it, if it selects that row (R114). -/
theorem decodeWord_eq_ok_iff_row {w : Word} {i : Instr} : decodeWord w = .ok i ↔
    ∃ r, opcodeTable[opcodeOf w]? = some r ∧ w &&& r.mask = r.pat ∧ r.build w = i := by
  unfold decodeWord
  cases hr : opcodeTable[opcodeOf w]? with
  | none => simp
  | some r => by_cases hsel : w &&& r.mask = r.pat <;> simp [hsel]

/-- The decoder is the inverse of `encode` on the words it accepts, and it accepts every operation's word. -/
theorem decodeWord_eq_ok_iff {w : Word} {i : Instr} : decodeWord w = .ok i ↔ encode i = w := by
  rw [decodeWord_eq_ok_iff_row]
  constructor
  · rintro ⟨r, hr, hsel, rfl⟩
    exact opcodeTable_reassembles r (List.mem_of_getElem? hr) w hsel
  · rintro rfl
    obtain ⟨r, hr, hsel⟩ := encode_selects i
    exact ⟨r, by rw [opcodeOf_encode, hr], hsel, build_encode i hr⟩

theorem decodeWord_encode (i : Instr) : decodeWord (encode i) = .ok i := decodeWord_eq_ok_iff.2 rfl

/-- `PUSH_PULSE`, which HOST may not issue, is opcode `0x01` (R114, R374). -/
theorem wellFormed_host_iff {i : Instr} : i.wellFormed .host = true ↔ i.opcode ≠ 0x01 := by
  cases i <;> simp [Instr.wellFormed, Instr.opcode]

/-- The command port decodes exactly the words of HOST's operations, each to its operation (R113, R115). -/
theorem decodeCommand_eq_ok_iff {w : Word} {i : Instr} :
    decodeCommand w = .ok i ↔ i.wellFormed .host = true ∧ encode i = w := by
  rw [wellFormed_host_iff]
  unfold decodeCommand
  split
  · next hop =>
    simp only [reduceCtorEq, false_iff]
    rintro ⟨hne, rfl⟩
    exact hne (by rw [← opcodeOf_encode, hop])
  · next hop =>
    rw [decodeWord_eq_ok_iff]
    refine ⟨fun hw => ⟨?_, hw⟩, And.right⟩
    rwa [← opcodeOf_encode, hw]

theorem decodeCommand_encode {i : Instr} (h : i.wellFormed .host = true) : decodeCommand (encode i) = .ok i :=
  decodeCommand_eq_ok_iff.2 ⟨h, rfl⟩

/-! ## The obligations on the code -/

/-- Settles O1: an operation's word selects the operation's row, which reads the fields back. -/
theorem encodeThenDecode : Obligations.EncodeThenDecode :=
  fun i => ⟨decodeWord_encode i, decodeCommand_encode⟩

/-- Settles O2: a word that selects a row is put together again from the row's pattern and the word's fields. -/
theorem decodeThenEncode : Obligations.DecodeThenEncode :=
  fun _ _ => decodeWord_eq_ok_iff.1

/-- Settles O3: by what the command port decodes. -/
theorem commandWordLegalIff : Obligations.CommandWordLegalIff :=
  fun _ => exists_congr fun _ => decodeCommand_eq_ok_iff

/-- Settles O5: nine words are those of HOST operations; of the other two, one has a bit outside the field of `FEED_BIT`
and one the first opcode without a row. -/
theorem workedEncodings : Obligations.WorkedEncodings :=
  ⟨decodeCommand_encode (i := .feedBit 1) rfl, decodeCommand_encode (i := .reset 3) rfl,
    decodeCommand_encode (i := .wrCtrl 0xF) rfl, decodeCommand_encode (i := .rdCsr 0x15) rfl,
    decodeCommand_encode (i := .loadIdLo 0x02D1) rfl, decodeCommand_encode (i := .setField 0 5 7) rfl,
    decodeCommand_encode (i := .regAdd 1 10 1) rfl, decodeCommand_encode (i := .rdSlot 3 2) rfl,
    decodeCommand_encode (i := .lookup 1) rfl, by decide, by decide⟩

end Sys2Proof
end

section
/-! SUPPORT. How a word reaches the block (30_encoding.md R113, R115, R116, R125) and how the assembler checks a field
(R121). -/

namespace Sys2Proof.Machine

section
variable {s : State} {w : Word}

/-! ## Words that are refused -/

/-- A word that does not decode is answered `ILLEGAL` (R115, R116). -/
theorem runCommand_of_reject {e : Reject} (hw : decodeCommand w = .error e) (s : State) :
    runCommand w s = .next (s.respond .illegal 0) := by
  simp only [runCommand, hw, raise]

/-- Opcode `0x01` belongs to the pulse port (R115). -/
theorem decodeCommand_pulseOpcode (h : opcodeOf w = 0x01) : decodeCommand w = .error .pulsePortOnly :=
  if_pos h

/-- The opcodes after the last row are reserved (R115). -/
theorem decodeCommand_reservedOpcode (h : 0x11 ≤ opcodeOf w) : decodeCommand w = .error .reservedOpcode := by
  have hnone : opcodeTable[opcodeOf w]? = none := List.getElem?_eq_none h
  simp only [decodeCommand, decodeWord, hnone, ite_eq_right_iff]
  omega

/-- A word that its opcode's row does not select is rejected (R116); with opcode `0x01` it is rejected for that. -/
theorem decodeCommand_reservedBit {r : Row} (hr : opcodeTable[opcodeOf w]? = some r) (hsel : w &&& r.mask ≠ r.pat) :
    ∃ e, decodeCommand w = .error e := by
  by_cases hop : opcodeOf w = 0x01
  · exact ⟨_, decodeCommand_pulseOpcode hop⟩
  · exact ⟨.reservedBit, by simp only [decodeCommand, decodeWord, hr, if_neg hop, if_neg hsel]⟩

/-- Settles O4: each of the three causes rejects the word, and a rejected word is answered `ILLEGAL`. -/
theorem illegalWordAnsweredIllegal : Obligations.IllegalWordAnsweredIllegal := by
  intro s w rest hvalid ht hcause
  have hreject : ∃ e, decodeCommand w = .error e := by
    rcases hcause with hpulse | hreserved | ⟨r, hr, hsel⟩
    · exact ⟨_, decodeCommand_pulseOpcode hpulse⟩
    · exact ⟨_, decodeCommand_reservedOpcode hreserved⟩
    · exact decodeCommand_reservedBit hr hsel
  obtain ⟨e, he⟩ := hreject
  rw [step_of_turns_cons hvalid ht]
  exact runCommand_of_reject he _

/-! ## Words placed on their port -/

/-- A 32-bit word placed is the first of the turns, on its own port (log 11). -/
theorem withFetchWord_word (s : State) (w : Word) :
    s.withFetchWord 32 w.toNat = { s with turns := turnOfWord w :: s.turns } := by
  rw [State.withFetchWord, Nat.mod_eq_of_lt w.isLt, BitVec.ofNat_toNat, BitVec.setWidth_eq]

theorem turnOfWord_pushPulse (d : Pulse) : turnOfWord (encode (.pushPulse d)) = .edge d :=
  (if_pos (opcodeOf_encode (.pushPulse d))).trans (congrArg Turn.edge BitVec.extractLsb'_append_eq_right)

theorem turnOfWord_host {i : Instr} (h : i.wellFormed .host = true) : turnOfWord (encode i) = .host (encode i) :=
  if_neg (by rw [opcodeOf_encode]; exact wellFormed_host_iff.1 h)

/-- An operation is `PUSH_PULSE` or HOST may issue it (R374). -/
theorem pushPulse_or_host (i : Instr) : (∃ d, i = .pushPulse d) ∨ i.wellFormed .host = true := by
  cases i with
  | pushPulse d => exact .inl ⟨d, rfl⟩
  | _ => exact .inr rfl

/-- The turn of an operation's word runs the operation, whichever port carries it (R113, R125). -/
theorem runTurn_turnOfWord_encode (i : Instr) (s : State) : runTurn (turnOfWord (encode i)) s = exec i s := by
  rcases pushPulse_or_host i with ⟨d, rfl⟩ | hhost
  · rw [turnOfWord_pushPulse, runTurn_edge]
  · rw [turnOfWord_host hhost, runTurn_host_of_decode (decodeCommand_encode hhost)]

/-- Taking a turn placed in front of the others gives the state before back. -/
theorem step_of_placed (hvalid : s.cfg.valid) (t : Turn) : step { s with turns := t :: s.turns } = runTurn t s :=
  step_of_turns_cons (s := { s with turns := t :: s.turns }) hvalid rfl

/-- Settles O7: the step takes the placed word's turn, and that turn runs the operation. -/
theorem placedWordRunsNext : Obligations.PlacedWordRunsNext := by
  intro s i hvalid
  rw [withFetchWord_word, step_of_placed hvalid, runTurn_turnOfWord_encode]

end

/-! ## Field values of the assembler -/

section
variable {β : Type}

theorem fitField_isSome {width v : Nat} : (fitField width v).isSome ↔ v < 2 ^ width := by
  unfold fitField
  split <;> simp [*]

theorem fitField_map_isSome {width v : Nat} (f : BitVec width → β) :
    ((fitField width v).map f).isSome ↔ v < 2 ^ width := by
  rw [Option.isSome_map, fitField_isSome]

/-- A further field after one that has to fit. -/
theorem fitField_bind_isSome {width v : Nat} {rest : BitVec width → Option β} {p : Prop}
    (hrest : ∀ x, (rest x).isSome ↔ p) : ((fitField width v).bind rest).isSome ↔ v < 2 ^ width ∧ p := by
  rw [← fitField_isSome]
  cases fitField width v with
  | none => simp
  | some x => simp [hrest x]

end

/-- Settles O8: each mnemonic checks its fields one after the other. -/
theorem assemblerRefusesMisfits : Obligations.AssemblerRefusesMisfits := by
  intro a b c
  refine ⟨fitField_map_isSome _, fitField_map_isSome _, fitField_map_isSome _, fitField_map_isSome _,
    fitField_map_isSome _, fitField_map_isSome _, fitField_map_isSome _, fitField_map_isSome _,
    ?setField, ?regAdd, ?rdSlot, fitField_map_isSome _⟩
  case setField => exact fitField_bind_isSome fun _ => fitField_bind_isSome fun _ => fitField_map_isSome _
  case regAdd => exact fitField_bind_isSome fun _ => fitField_bind_isSome fun _ => fitField_map_isSome _
  case rdSlot => exact fitField_bind_isSome fun _ => fitField_map_isSome _

end Sys2Proof.Machine
end

section
/-! SUPPORT. The response of a command (30_encoding.md R119, R120, 60_exceptions.md R363): a command is refused with
data 0 and no other change, or performed and answered `OK`; a pulse and an ENGINE turn answer nothing. -/

namespace Sys2Proof.Machine

/-! ## The two outcomes of a command -/

/-- What a command issued in `s` can end in: the refusal `raise E(0)` of R13, or a next state with the response `OK`. -/
inductive CommandAnswer (s : State) : Host.Outcome State Fault Refusal → Prop where
  | refused (st : Status) (hst : st ≠ .ok) : CommandAnswer s (.next (s.respond st 0))
  | performed (u : State) (data : Word) : CommandAnswer s (.next (u.respond .ok data))

section
variable {s u : State}

/-- An operation whose only check is its operand's range. -/
theorem CommandAnswer.of_check (c : Prop) [Decidable c] (data : Word) :
    CommandAnswer s (if c then done u data else raise s .badarg) := by
  split
  · exact .performed u data
  · exact .refused .badarg (by decide)

theorem CommandAnswer.rdCsr (s : State) (n : Octet) : CommandAnswer s (exec (.rdCsr n) s) := by
  by_cases h : inCsrView n
  · rw [exec_rdCsr_inView h]; exact .performed _ _
  · rw [exec_rdCsr_reserved h]; exact .refused .badarg (by decide)

theorem CommandAnswer.decStep (s : State) : CommandAnswer s (exec .decStep s) := by
  rcases execDecStep_cases s with ⟨-, he⟩ | ⟨-, -, he⟩ | ⟨-, -, u, w, -, he⟩ <;> rw [he]
  · exact .refused .busy (by decide)
  · exact .refused .empty (by decide)
  · exact .performed u w

theorem CommandAnswer.parseStep (s : State) : CommandAnswer s (exec .parseStep s) := by
  rcases execParseStep_cases s with ⟨-, he⟩ | ⟨-, -, he⟩ | ⟨-, -, u, w, -, he⟩ <;> rw [he]
  · exact .refused .busy (by decide)
  · exact .refused .empty (by decide)
  · exact .performed u w

theorem CommandAnswer.popSymbol (s : State) : CommandAnswer s (exec .popSymbol s) := by
  rcases execPopSymbol_cases s with ⟨-, he⟩ | ⟨-, -, he⟩ | ⟨-, -, y, q, -, he⟩ <;> rw [he]
  · exact .refused .busy (by decide)
  · exact .refused .empty (by decide)
  · exact .performed _ _

theorem CommandAnswer.feedBit (s : State) (b : BitVec 1) : CommandAnswer s (exec (.feedBit b) s) := by
  rcases execFeedBit_cases b s with ⟨-, he⟩ | ⟨-, he⟩ <;> rw [he]
  · exact .refused .busy (by decide)
  · exact .performed _ _

theorem CommandAnswer.regAdd (s : State) (f : BitVec 5) (l c : Octet) : CommandAnswer s (exec (.regAdd f l c) s) := by
  rcases execRegAdd_cases f l c s with ⟨-, he⟩ | ⟨-, -, he⟩ | ⟨-, -, -, he⟩ | ⟨-, -, -, he⟩ <;> rw [he]
  · exact .refused .busy (by decide)
  · exact .refused .badarg (by decide)
  · exact .refused .full (by decide)
  · exact .performed _ _

/-- Every operation that HOST may issue is refused or performed (R119, R120). -/
theorem exec_answer {i : Instr} (hi : i.wellFormed .host = true) (s : State) : CommandAnswer s (exec i s) := by
  cases i with
  | pushPulse d => cases hi
  | decStep => exact .decStep s
  | parseStep => exact .parseStep s
  | popSymbol => exact .popSymbol s
  | feedBit b => exact .feedBit s b
  | rdCsr n => exact .rdCsr s n
  | rdMsg k => exact .of_check _ _
  | setField k a e => exact .of_check _ _
  | regAdd f l c => exact .regAdd s f l c
  | rdSlot k w => exact .of_check _ _
  | nop | reset m | wrCtrl c | loadIdLo h | loadIdHi h | clrCnt | lookup c => exact .performed _ _

/-- So is every command word, an illegal one being refused (R113, R115). -/
theorem runCommand_answer (w : Word) (s : State) : CommandAnswer s (runCommand w s) := by
  cases hw : decodeCommand w with
  | error e => rw [runCommand_of_reject hw]; exact .refused .illegal (by decide)
  | ok i =>
    obtain ⟨hhost, -⟩ := decodeCommand_eq_ok_iff.1 hw
    have hrun : runCommand w s = exec i s := runTurn_host_of_decode hw s
    rw [hrun]
    exact exec_answer hhost s

/-! ## What answers nothing -/

/-- The pulse port has no response (R119). -/
theorem exec_pushPulse_rsp {t : State} {d : Pulse} (he : exec (.pushPulse d) s = .next t) : t.rsp = s.rsp := by
  rcases execPushPulse_cases d s with ⟨-, hs⟩ | ⟨-, -, hs⟩ | ⟨-, q, -, hs⟩ <;>
    rw [hs] at he <;> obtain rfl := Host.Outcome.next.inj he <;> rfl

/-- Decoding changes neither `CTRL` nor the response: HOST's `DEC_STEP` adds the response, ENGINE none (R118). -/
theorem runDecStep_frame {w : Word} (hrun : runDecStep s = some (u, w)) : u.ctrl = s.ctrl ∧ u.rsp = s.rsp := by
  rcases runDecStep_cases s with ⟨-, he⟩ | ⟨-, d, q, -, he⟩
  · rw [he] at hrun; cases hrun
  · rw [he] at hrun
    obtain ⟨rfl, -⟩ := Prod.mk.inj (Option.some.inj hrun)
    rw [decodeStep_frame]
    exact ⟨rfl, rfl⟩

/-- Nor does parsing. -/
theorem runParseStep_frame {w : Word} (hrun : runParseStep s = some (u, w)) : u.ctrl = s.ctrl ∧ u.rsp = s.rsp := by
  rcases runParseStep_cases s with ⟨-, he⟩ | ⟨-, y, q, -, he⟩
  · rw [he] at hrun; cases hrun
  · rw [he] at hrun
    obtain ⟨rfl, -⟩ := Prod.mk.inj (Option.some.inj hrun)
    rw [deliver_frame]
    exact ⟨rfl, rfl⟩

theorem engineStep_rsp (s : State) : (engineStep s).rsp = s.rsp := by
  rcases engineStep_cases s with ⟨-, -, w, hrun⟩ | ⟨-, -, -, w, hrun⟩ | ⟨-, -, he⟩
  · obtain ⟨-, hrsp⟩ := runParseStep_frame hrun
    exact hrsp
  · obtain ⟨-, hrsp⟩ := runDecStep_frame hrun
    exact hrsp
  · rw [he]

end

/-! ## The obligations on the response -/

/-- Settles O57: of the two outcomes of a command only the refusal answers another status than `OK`. -/
theorem refusalChangesNothing : Obligations.RefusalChangesNothing := by
  intro s t w r hrun hrsp hne
  have hans := runCommand_answer w s
  rw [hrun] at hans
  cases hans with
  | refused st hst =>
    obtain rfl := Option.some.inj hrsp
    exact ⟨rfl, rfl⟩
  | performed u data =>
    obtain rfl := Option.some.inj hrsp
    exact absurd rfl hne

/-- Settles O58: both outcomes of a command hold a response, and neither port nor schedule gives one elsewhere. -/
theorem oneResponsePerCommand : Obligations.OneResponsePerCommand := by
  refine ⟨fun s w => ?_, fun s t d => exec_pushPulse_rsp, engineStep_rsp⟩
  have hans := runCommand_answer w s
  generalize runCommand w s = o at hans ⊢
  cases hans with
  | refused st hst => exact ⟨_, _, rfl, rfl⟩
  | performed u data => exact ⟨_, _, rfl, rfl⟩

end Sys2Proof.Machine
end

section
/-! SUPPORT. ENGINE's step and HOST's commands of the same name (30_encoding.md R118, 44_control.md R340): of `CTRL`,
decoding reads nothing and parsing only `PROTO`, so both do the same under other enables. -/

namespace Sys2Proof.Machine

/-- The state with another `CTRL`. -/
def State.withCtrl (s : State) (c : BitVec 4) : State := { s with ctrl := c }

/-- A state with its result, under another `CTRL`. -/
def withCtrlFst {β : Type} (c : BitVec 4) (r : State × β) : State × β := (r.1.withCtrl c, r.2)

section
variable {s : State} {c : BitVec 4}

@[simp] theorem State.withCtrl_cfg (s : State) (c : BitVec 4) : (s.withCtrl c).cfg = s.cfg := rfl
@[simp] theorem State.withCtrl_bq (s : State) (c : BitVec 4) : (s.withCtrl c).bq = s.bq := rfl
@[simp] theorem State.withCtrl_par (s : State) (c : BitVec 4) : (s.withCtrl c).par = s.par := rfl

theorem State.withCtrl_proto (h : protoOf c = s.proto) : (s.withCtrl c).proto = s.proto := h

/-- `PROTO` is bit 3 of `CTRL` (R33). -/
theorem protoOf_of_bit (h : c.getLsbD 3 = s.ctrl.getLsbD 3) : protoOf c = s.proto := by
  simp only [State.proto, protoOf, h]

theorem State.withCtrl_setDec (s : State) (c : BitVec 4) (d : Decoder) :
    ({ s.withCtrl c with dec := d } : State) = State.withCtrl { s with dec := d } c := rfl

/-! ## Decoding reads nothing of `CTRL` -/

theorem emit_withCtrl (y : Symbol) (s : State) (c : BitVec 4) : emit y (s.withCtrl c) = withCtrlFst c (emit y s) := by
  simp only [emit, State.pushBq, State.withCtrl_bq, State.withCtrl_cfg]
  cases s.bq.insert s.cfg.bqCap y <;> rfl

/-- The decoder after a pulse that is not `OUT` (R183). -/
def transitioned (d : Pulse) (s : State) : Decoder :=
  if takesLong (classify s.cfg d) s.dec.first then s.dec.longAction else s.dec.shortAction

theorem decodeStep_of_out {d : Pulse} (hout : classify s.cfg d = .out) : decodeStep d s =
    ((emit .resync s.decReset.countResync).1,
      ⟨.out, false, some .resync, (emit .resync s.decReset.countResync).2⟩) := by
  rcases decodeStep_cases d s with ⟨-, he⟩ | ⟨hin, -⟩
  · exact he
  · exact absurd hout hin

theorem decodeStep_of_boundary {d : Pulse} (hin : classify s.cfg d ≠ .out) (hhc : (transitioned d s).hc = 0) :
    decodeStep d s =
      ((emit (symbolOfBit (transitioned d s).cur) { s with dec := transitioned d s }).1,
        ⟨classify s.cfg d, takesLong (classify s.cfg d) s.dec.first, some (symbolOfBit (transitioned d s).cur),
          (emit (symbolOfBit (transitioned d s).cur) { s with dec := transitioned d s }).2⟩) := by
  rcases decodeStep_cases d s with ⟨hout, -⟩ | ⟨-, dec, rfl, ⟨-, he⟩ | ⟨hne, -⟩⟩
  · exact absurd hout hin
  · exact he
  · exact absurd hhc hne

theorem decodeStep_of_middle {d : Pulse} (hin : classify s.cfg d ≠ .out) (hhc : (transitioned d s).hc ≠ 0) :
    decodeStep d s = ({ s with dec := transitioned d s },
      ⟨classify s.cfg d, takesLong (classify s.cfg d) s.dec.first, none, false⟩) := by
  rcases decodeStep_cases d s with ⟨hout, -⟩ | ⟨-, dec, rfl, ⟨heq, -⟩ | ⟨-, he⟩⟩
  · exact absurd hout hin
  · exact absurd heq hhc
  · exact he

theorem decodeStep_withCtrl (d : Pulse) (s : State) (c : BitVec 4) :
    decodeStep d (s.withCtrl c) = withCtrlFst c (decodeStep d s) := by
  have hres : (s.withCtrl c).decReset.countResync = s.decReset.countResync.withCtrl c := rfl
  have htrans : transitioned d (s.withCtrl c) = transitioned d s := rfl
  by_cases hout : classify s.cfg d = .out
  · rw [decodeStep_of_out hout, decodeStep_of_out (s := s.withCtrl c) hout, hres, emit_withCtrl]; rfl
  by_cases hhc : (transitioned d s).hc = 0
  · rw [decodeStep_of_boundary hout hhc, decodeStep_of_boundary (s := s.withCtrl c) hout hhc, htrans,
      State.withCtrl_setDec, emit_withCtrl]; rfl
  · rw [decodeStep_of_middle hout hhc, decodeStep_of_middle (s := s.withCtrl c) hout hhc]; rfl

theorem runDecStep_withCtrl (s : State) (c : BitVec 4) :
    runDecStep (s.withCtrl c) = (runDecStep s).map (withCtrlFst c) := by
  have hpop : (s.withCtrl c).popPq = s.popPq.map fun r => (r.1, r.2.withCtrl c) := by
    rw [State.popPq, State.popPq, Option.map_map]; rfl
  simp only [runDecStep, hpop]
  cases s.popPq with
  | none => rfl
  | some r => simp only [Option.map_some, decodeStep_withCtrl]; rfl

/-! ## Parsing reads `PROTO` of it -/

theorem deviceId_withCtrl (h : protoOf c = s.proto) : deviceId (s.withCtrl c) = deviceId s := by
  simp only [deviceId, State.withCtrl_proto h]; rfl

theorem channel_withCtrl (h : protoOf c = s.proto) : channel (s.withCtrl c) = channel s := by
  simp only [channel, State.withCtrl_proto h]; rfl

theorem checksumCalc_withCtrl (h : protoOf c = s.proto) : checksumCalc (s.withCtrl c) = checksumCalc s := by
  simp only [checksumCalc, bodyIndices, State.withCtrl_proto h]; rfl

theorem identify_withCtrl (h : protoOf c = s.proto) : identify (s.withCtrl c) = (identify s).withCtrl c := by
  have hlookup (id : Word) (ch : Octet) : regLookup (s.withCtrl c) id ch = regLookup s id ch := rfl
  simp only [identify, deviceId_withCtrl h, channel_withCtrl h, hlookup]
  cases regLookup s (deviceId s) (channel s) <;> rfl

theorem complete_withCtrl (h : protoOf c = s.proto) (r : ParseRecord) :
    complete (s.withCtrl c) r = withCtrlFst c (complete s r) := by
  have hrecv : checksumRecv (s.withCtrl c) = checksumRecv s := rfl
  simp only [complete, checksumCalc_withCtrl h, hrecv]
  split_ifs <;> rfl

theorem nibbleDone_withCtrl (h : protoOf c = s.proto) (r : ParseRecord) :
    nibbleDone (s.withCtrl c) r = withCtrlFst c (nibbleDone s r) := by
  have hstore : storeNibble (s.withCtrl c) = (storeNibble s).withCtrl c := rfl
  have hproto : protoOf c = (storeNibble s).proto := h
  simp only [nibbleDone, hstore, State.withCtrl_proto hproto, identify_withCtrl hproto, complete_withCtrl hproto,
    State.withCtrl_cfg, State.withCtrl_par]
  split_ifs <;> rfl

theorem accept_withCtrl (h : protoOf c = s.proto) (b : BitVec 1) (r : ParseRecord) :
    accept b (s.withCtrl c) r = withCtrlFst c (accept b s r) := by
  cases hst : s.par.state with
  | sync =>
    by_cases hn : shiftBit s.par.nib b = syncNibble
    · simp only [accept, State.withCtrl_par, hst, hn, if_true]; rfl
    · simp only [accept, State.withCtrl_par, hst, hn, if_false]; rfl
  | complete => simp only [accept, State.withCtrl_par, hst]; rfl
  | ident | body =>
    by_cases hn : s.par.sub + 1 = 0
    · simp only [accept, State.withCtrl_par, hst, hn, if_true]
      exact nibbleDone_withCtrl (s := { s with par := ⟨_, shiftBit s.par.nib b, 0, _, _, _, _, _⟩ }) h r
    · simp only [accept, State.withCtrl_par, hst, hn, if_false]; rfl

theorem filterBit_withCtrl (h : protoOf c = s.proto) : filterBit (s.withCtrl c) = withCtrlFst c (filterBit s) := by
  simp only [filterBit, State.withCtrl_proto h]
  cases s.proto <;> rfl

theorem filterBit_proto (s : State) : (filterBit s).1.proto = s.proto := by
  unfold filterBit
  cases hp : s.proto <;> exact hp

theorem deliverBit_withCtrl (h : protoOf c = s.proto) (b : BitVec 1) :
    deliverBit b (s.withCtrl c) = withCtrlFst c (deliverBit b s) := by
  have hproto : protoOf c = (filterBit s).1.proto := h.trans (filterBit_proto s).symm
  cases hkeep : (filterBit s).2 with
  | true => simp only [deliverBit, filterBit_withCtrl h, withCtrlFst, hkeep, if_true, accept_withCtrl hproto]
  | false => simp only [deliverBit, filterBit_withCtrl h, withCtrlFst, hkeep]; rfl

theorem deliver_withCtrl (h : protoOf c = s.proto) (y : Symbol) :
    deliver y (s.withCtrl c) = withCtrlFst c (deliver y s) := by
  by_cases hst : s.par.state = .complete
  · simp only [deliver, State.withCtrl_par, hst, if_true]; rfl
  · simp only [deliver, State.withCtrl_par, hst, if_false]
    cases y with
    | resync => rfl
    | one => exact deliverBit_withCtrl h 1
    | zero => exact deliverBit_withCtrl h 0

theorem runParseStep_withCtrl (h : protoOf c = s.proto) :
    runParseStep (s.withCtrl c) = (runParseStep s).map (withCtrlFst c) := by
  have hpop : (s.withCtrl c).popBq = s.popBq.map fun r => (r.1, r.2.withCtrl c) := by
    rw [State.popBq, State.popBq, Option.map_map]; rfl
  rcases popBq_cases s with ⟨-, he⟩ | ⟨-, y, q, -, he⟩
  · simp only [runParseStep, hpop, he, Option.map_none]
  · have hproto : protoOf c = ({ s with bq := q } : State).proto := h
    simp only [runParseStep, hpop, he, Option.map_some, deliver_withCtrl hproto]; rfl

end

/-! ## ENGINE's step -/

section
variable {s u : State} {w : Word}

theorem execParseStep_of_run (hen : s.parEn = false) (hrun : runParseStep s = some (u, w)) :
    exec .parseStep s = .next (u.respond .ok w) := by
  simp [exec, execParseStep, hen, hrun, done]

theorem execDecStep_of_run (hen : s.decEn = false) (hrun : runDecStep s = some (u, w)) :
    exec .decStep s = .next (u.respond .ok w) := by
  simp [exec, execDecStep, hen, hrun, done]

/-- What left `CTRL` and the response alone gives the same state when done under another `CTRL` and answered there. -/
theorem withCtrl_respond_undo (c : BitVec 4) (st : Status) (hframe : u.ctrl = s.ctrl ∧ u.rsp = s.rsp) :
    u = { ((u.withCtrl c).respond st w) with ctrl := s.ctrl, rsp := s.rsp } := by
  obtain ⟨hctrl, hrsp⟩ := hframe
  rw [← hctrl, ← hrsp]
  rfl

end

/-- Settles O59: ENGINE's choice says which step it is, and HOST's command is that step done under `off`. -/
theorem engineStepIsCommand : Obligations.EngineStepIsCommand := by
  intro s off hdecOff hparOff hbit
  refine ⟨fun hen hne => ?parse, fun hnparse hen hne => ?decode, fun hnparse hndecode => ?idle⟩
  case parse =>
    rcases engineStep_cases s with ⟨-, -, w, hrun⟩ | ⟨-, -, hempty, -⟩ | ⟨hempty, -⟩
    · have hrunOff : runParseStep (s.withCtrl off) = some ((engineStep s).withCtrl off, w) := by
        rw [runParseStep_withCtrl (protoOf_of_bit hbit), hrun]; rfl
      exact ⟨_, execParseStep_of_run hparOff hrunOff, withCtrl_respond_undo off .ok (runParseStep_frame hrun)⟩
    · exact absurd (hempty hen) hne
    · exact absurd (hempty hen) hne
  case decode =>
    rcases engineStep_cases s with ⟨hpen, hpne, -⟩ | ⟨-, -, -, w, hrun⟩ | ⟨-, hempty, -⟩
    · exact absurd ⟨hpen, hpne⟩ hnparse
    · have hrunOff : runDecStep (s.withCtrl off) = some ((engineStep s).withCtrl off, w) := by
        rw [runDecStep_withCtrl, hrun]; rfl
      exact ⟨_, execDecStep_of_run hdecOff hrunOff, withCtrl_respond_undo off .ok (runDecStep_frame hrun)⟩
    · exact absurd (hempty hen) hne
  case idle =>
    rcases engineStep_cases s with ⟨hpen, hpne, -⟩ | ⟨hden, hdne, -⟩ | ⟨-, -, he⟩
    · exact absurd ⟨hpen, hpne⟩ hnparse
    · exact absurd ⟨hden, hdne⟩ hndecode
    · exact he

end Sys2Proof.Machine
end

section
/-! SUPPORT. The pseudo-operation `ADD_SENSOR` (30_encoding.md R122): its expansion stages the id and the field pairs,
and `REG_ADD` appends the descriptor they make (43_registry.md R280 to R284). -/

namespace Sys2Proof.Machine

section
variable {s : State}

/-! ## The staged id -/

theorem withHalves (x y : Word) :
    withHighHalf (withLowHalf y (x.extractLsb' 0 16)) (x.extractLsb' 16 16) = x := by
  have hlow : (withLowHalf y (x.extractLsb' 0 16)).extractLsb' 0 16 = x.extractLsb' 0 16 :=
    BitVec.extractLsb'_append_eq_right
  rw [withHighHalf, hlow]
  exact BitVec.extractLsb'_append_extractLsb' (w := 16) (len := 16)

/-- `LOAD_ID` stages the whole id, whatever was staged before (R122, R280, R281). -/
theorem execAll_loadId (x : Word) (s : State) :
    ∃ r, execAll (expand (.loadId x)) s = .next { s with idStage := x, rsp := r } := by
  have hx := withHalves x s.idStage
  refine ⟨some ⟨.ok, x⟩, ?_⟩
  simp only [expand, execAll, exec, execLoadIdLo, execLoadIdHi, done, State.respond, hx]

/-! ## The staged field pairs -/

/-- One `SET_FIELD` per pair, from field number `n` on (R122). -/
def setFields (n : Nat) (pairs : List FieldPair) : List Instr :=
  (pairs.zipIdx n).map fun q => .setField (BitVec.ofNat 4 q.2) q.1.start q.1.stop

theorem setFields_cons (n : Nat) (p : FieldPair) (rest : List FieldPair) :
    setFields n (p :: rest) = .setField (BitVec.ofNat 4 n) p.start p.stop :: setFields (n + 1) rest := by
  simp only [setFields, List.zipIdx_cons, List.map_cons]

theorem expand_addSensor (x : Word) (c l : Octet) (pairs : List FieldPair) : expand (.addSensor x c l pairs) =
    expand (.loadId x) ++ setFields 0 pairs ++ [.regAdd (BitVec.ofNat 5 pairs.length) l c] := rfl

/-- `FSTAGE` with pairs laid over it from number `n` on. -/
def overlaid (n : Nat) (pairs stage : List FieldPair) : List FieldPair :=
  stage.take n ++ pairs ++ stage.drop (n + pairs.length)

theorem overlaid_nil (n : Nat) (stage : List FieldPair) : overlaid n [] stage = stage := by
  simp [overlaid]

theorem overlaid_set {n : Nat} {stage : List FieldPair} (hn : n < stage.length) (p : FieldPair)
    (rest : List FieldPair) : overlaid (n + 1) rest (stage.set n p) = overlaid n (p :: rest) stage := by
  have htake : (stage.set n p).take (n + 1) = stage.take n ++ [p] := by
    rw [List.take_add_one, List.take_set_of_le le_rfl, List.getElem?_set_self hn]; rfl
  have hdrop : (stage.set n p).drop (n + 1 + rest.length) = stage.drop (n + (rest.length + 1)) := by
    rw [List.drop_set_of_lt (by omega), Nat.add_assoc, Nat.add_comm 1]
  simp only [overlaid, htake, hdrop, List.length_cons, List.append_assoc, List.singleton_append]

theorem overlaid_getD {k : Nat} {pairs : List FieldPair} (hk : k < pairs.length) (stage : List FieldPair)
    (d : FieldPair) : (overlaid 0 pairs stage).getD k d = pairs[k] := by
  simp [overlaid, List.getElem?_append_left hk, hk]

/-- `SET_FIELD` with a number in range (R282). -/
theorem exec_setField_ofNat {n : Nat} (hn : n < s.cfg.maxFields) (hmax : s.cfg.maxFields ≤ 16) (p : FieldPair) :
    exec (.setField (BitVec.ofNat 4 n) p.start p.stop) s =
      .next (({ s with fstage := s.fstage.set n p } : State).respond .ok 0) := by
  have hnum : (BitVec.ofNat 4 n).toNat = n := (BitVec.toNat_ofNat ..).trans (Nat.mod_eq_of_lt (by omega))
  rcases execSetField_cases (BitVec.ofNat 4 n) p.start p.stop s with ⟨hout, -⟩ | ⟨-, he⟩
  · omega
  · rw [he, hnum]

theorem execAll_setFields {n : Nat} {pairs : List FieldPair} (hfit : n + pairs.length ≤ s.cfg.maxFields)
    (hmax : s.cfg.maxFields ≤ 16) (hstage : s.fstage.length = s.cfg.maxFields) :
    ∃ r, execAll (setFields n pairs) s = .next { s with fstage := overlaid n pairs s.fstage, rsp := r } := by
  induction pairs generalizing n s with
  | nil => exact ⟨s.rsp, by rw [overlaid_nil]; rfl⟩
  | cons p rest ih =>
    rw [List.length_cons] at hfit
    have hn : n < s.cfg.maxFields := by omega
    have hset := exec_setField_ofNat hn hmax p
    rw [setFields_cons, execAll_cons_of hset, ← overlaid_set (hstage ▸ hn)]
    exact ih (s := ({ s with fstage := s.fstage.set n p } : State).respond .ok 0) (n := n + 1)
      (by change n + 1 + rest.length ≤ s.cfg.maxFields; omega) hmax (List.length_set.trans hstage)

/-- What is staged before `REG_ADD`: the id and the field pairs. -/
def sensorStaged (s : State) (x : Word) (pairs : List FieldPair) (r : Option Response) : State :=
  { s with idStage := x, fstage := overlaid 0 pairs s.fstage, rsp := r }

theorem execAll_stageSensor {pairs : List FieldPair} (hfit : pairs.length ≤ s.cfg.maxFields)
    (hmax : s.cfg.maxFields ≤ 16) (hstage : s.fstage.length = s.cfg.maxFields) (x : Word) :
    ∃ r, execAll (expand (.loadId x) ++ setFields 0 pairs) s = .next (sensorStaged s x pairs r) := by
  obtain ⟨r, hload⟩ := execAll_loadId x s
  obtain ⟨r', hfields⟩ := execAll_setFields (s := { s with idStage := x, rsp := r }) (n := 0)
    ((Nat.zero_add _).trans_le hfit) hmax hstage
  exact ⟨r', (execAll_append_of hload _).trans hfields⟩

/-! ## The appended descriptor -/

theorem fieldAt_stagedDescriptor {k : Nat} (hk : k < s.cfg.maxFields) (f : BitVec 5) (l c : Octet) :
    fieldAt (stagedDescriptor s f l c) k = s.fstageAt k := by
  simp [fieldAt, stagedDescriptor, hk]

/-- The state after an accepted `REG_ADD`, before its response (R284). -/
def withSensor (s : State) (f : BitVec 5) (l c : Octet) : State :=
  { s with reg := Cells.write s.reg s.regCount.toNat (stagedDescriptor s f l c), regCount := s.regCount + 1 }

theorem withSensor_regAt_new (s : State) (f : BitVec 5) (l c : Octet) :
    (withSensor s f l c).regAt s.regCount.toNat = stagedDescriptor s f l c := regAt_append_new

theorem withSensor_regAt_other {j : Nat} (hj : j ≠ s.regCount.toNat) (f : BitVec 5) (l c : Octet) :
    (withSensor s f l c).regAt j = s.regAt j := Cells.read_write_other _ _ _ hj

theorem withSensor_regCount (hcount : s.regCount.toNat < 16) (f : BitVec 5) (l c : Octet) :
    (withSensor s f l c).regCount.toNat = s.regCount.toNat + 1 := by
  change (s.regCount + 1).toNat = _
  bv_omega

/-- `REG_ADD` with room and its operands in range (R284). -/
theorem exec_regAdd_of_room {f : BitVec 5} {l : Octet} (hen : s.parEn = false) (hf : f.toNat ≤ s.cfg.maxFields)
    (hl : s.cfg.minLenAll ≤ l.toNat) (hroom : s.regCount.toNat ≠ s.cfg.regCap) (c : Octet) :
    exec (.regAdd f l c) s = .next ((withSensor s f l c).respond .ok (s.regCount.setWidth 32)) := by
  rcases execRegAdd_cases f l c s with ⟨hon, -⟩ | ⟨-, hbad, -⟩ | ⟨-, -, hfull, -⟩ | ⟨-, -, -, he⟩
  · rw [hen] at hon; cases hon
  · exact absurd ⟨hf, hl⟩ hbad
  · exact absurd hfull hroom
  · exact he

end

/-- Settles O44: the id and the pairs are staged, and `REG_ADD` finds room and appends the descriptor they make. -/
theorem addSensorRegisters : Obligations.AddSensorRegisters := by
  intro s x c l pairs hinv hen hpairs hl hroom
  obtain ⟨-, -, -, -, ⟨-, hcap⟩, hmax, -⟩ := hinv.instanceValid
  obtain ⟨nf, hnf, hnfVal⟩ : ∃ nf, nf = BitVec.ofNat 5 pairs.length ∧ nf.toNat = pairs.length :=
    ⟨_, rfl, (BitVec.toNat_ofNat ..).trans (Nat.mod_eq_of_lt (by omega))⟩
  rw [expand_addSensor, ← hnf]
  obtain ⟨r, hstage⟩ := execAll_stageSensor hpairs hmax hinv.staging x
  have hadd := exec_regAdd_of_room (s := sensorStaged s x pairs r) hen (hnfVal.trans_le hpairs) hl hroom.ne c
  have hrun := (execAll_append_of hstage _).trans (execAll_cons_of hadd [])
  have hnew := withSensor_regAt_new (sensorStaged s x pairs r) nf l c
  refine ⟨_, hrun, ?count, ?id, ?channel, ?length, ?number, fun k hk => ?pair, fun j hj => ?other, rfl⟩
  case count => exact withSensor_regCount (s := sensorStaged s x pairs r) (hroom.trans_le hcap) nf l c
  case id => exact congrArg Descriptor.id hnew
  case channel => exact congrArg Descriptor.ch hnew
  case length => exact congrArg Descriptor.len hnew
  case number => exact (congrArg (fun d => d.nf.toNat) hnew).trans hnfVal
  case pair =>
    calc fieldAt ((withSensor (sensorStaged s x pairs r) nf l c).regAt s.regCount.toNat) k
      _ = fieldAt (stagedDescriptor (sensorStaged s x pairs r) nf l c) k := congrArg (fieldAt · k) hnew
      _ = (sensorStaged s x pairs r).fstageAt k :=
        fieldAt_stagedDescriptor (s := sensorStaged s x pairs r) (hk.trans_le hpairs) nf l c
      _ = pairs[k] := overlaid_getD hk s.fstage ⟨0, 0⟩
  case other => exact withSensor_regAt_other (s := sensorStaged s x pairs r) hj nf l c

end Sys2Proof.Machine
end

section
/-! SUPPORT. What an insertion and a removal do to the live elements (10_state.md R36, 40_pulse_queue.md R152, R153),
and `PUSH_PULSE` (R155 to R157). -/

namespace Sys2Proof.Machine

section
variable {α : Type} {cap : Nat} {q q' : Queue α} {v : α}

/-! ## The queue primitives where they answer -/

theorem Queue.insert_of_full (h : q.cnt.toNat = cap) (v : α) : q.insert cap v = none := by
  rcases Queue.insert_cases cap q v with ⟨-, hn⟩ | ⟨hne, -⟩
  · exact hn
  · exact absurd h hne

theorem Queue.insert_of_room (h : q.cnt.toNat < cap) (v : α) : q.insert cap v = some
    { buf := Cells.write q.buf q.wr.toNat v, wr := Queue.advance cap q.wr, rd := q.rd, cnt := q.cnt + 1 } := by
  rcases Queue.insert_cases cap q v with ⟨hfull, -⟩ | ⟨-, hs⟩
  · exact absurd hfull h.ne
  · exact hs

theorem Queue.remove_of_empty (h : q.cnt = 0) (u : Nat → α) : q.remove cap u = none := by
  rcases Queue.remove_cases cap u q with ⟨-, hn⟩ | ⟨hne, -⟩
  · exact hn
  · exact absurd h hne

theorem Queue.remove_of_nonempty (h : q.cnt ≠ 0) (u : Nat → α) : q.remove cap u = some
    (Cells.read u q.buf q.rd.toNat, { buf := q.buf, wr := q.wr, rd := Queue.advance cap q.rd, cnt := q.cnt - 1 }) := by
  rcases Queue.remove_cases cap u q with ⟨hempty, -⟩ | ⟨-, hs⟩
  · exact absurd hempty h
  · exact hs

/-- A count that is not 0 falls by one without wrapping. -/
theorem octet_pred_toNat {c : Octet} (h : c ≠ 0) : (c - 1).toNat + 1 = c.toNat := by
  bv_omega

/-! ## The live elements -/

/-- In a queue with room, the insertion cursor stands on no live element: fewer than `cap` steps close no circle. -/
theorem Queue.live_index_ne_wr (h : Queue.wf cap q) (hroom : q.cnt.toNat < cap) {k : Nat} (hk : k < q.cnt.toNat) :
    (q.rd.toNat + k) % cap ≠ q.wr.toNat := by
  obtain ⟨-, -, hwr, -⟩ := h
  intro heq
  have hmod : k ≡ q.cnt.toNat [MOD cap] := Nat.ModEq.add_left_cancel' q.rd.toNat (heq.trans hwr)
  have hsame : k = q.cnt.toNat := hmod.eq_of_lt_of_lt (hk.trans hroom) hroom
  omega

/-- The value inserted is the newest live element, and no other one is overwritten (R152). -/
theorem Queue.live_insert (hcap : cap ≤ 255) (h : Queue.wf cap q) (hroom : q.cnt.toNat < cap)
    (hi : q.insert cap v = some q') (u : Nat → α) : q'.live cap u = q.live cap u ++ [v] := by
  rw [Queue.insert_of_room hroom] at hi
  obtain rfl := Option.some.inj hi
  have hcnt : (q.cnt + 1).toNat = q.cnt.toNat + 1 := octet_succ_toNat rfl (by omega)
  obtain ⟨-, -, hwr, -⟩ := id h
  simp only [Queue.live, hcnt, List.range_succ, List.map_append, List.map_singleton]
  congr 1
  · refine List.map_congr_left fun k hk => ?_
    exact Cells.read_write_other u q.buf v (Queue.live_index_ne_wr h hroom (List.mem_range.1 hk))
  · rw [← hwr, Cells.read_write_same]

/-- The element removed was the oldest live one, and the others keep their order (R153). -/
theorem Queue.live_remove (hcap : cap ≤ 255) (h : Queue.wf cap q) {u : Nat → α}
    (hr : q.remove cap u = some (v, q')) : q.live cap u = v :: q'.live cap u := by
  rcases Queue.remove_cases cap u q with ⟨-, hn⟩ | ⟨hne, hs⟩
  · rw [hn] at hr; cases hr
  rw [hs] at hr
  obtain ⟨rfl, rfl⟩ := Prod.mk.inj (Option.some.inj hr)
  obtain ⟨-, hrd, -⟩ := h
  simp only [Queue.live, ← octet_pred_toNat hne, List.range_succ_eq_map, List.map_cons, List.map_map,
    Queue.advance_toNat hrd hcap]
  congr 1
  · rw [Nat.add_zero, Nat.mod_eq_of_lt hrd]
  · refine List.map_congr_left fun k _ => ?_
    rw [Nat.mod_add_mod, Function.comp_apply, Nat.succ_eq_add_one, Nat.add_right_comm, Nat.add_assoc]

end

/-! ## The obligations on the queues -/

/-- Settles O15: with room the write falls outside the live elements, so they stay and the value follows them. -/
theorem queueInsertAppends : Obligations.QueueInsertAppends := by
  intro α cap u q v hcap h
  refine ⟨fun hfull => Queue.insert_of_full hfull v, fun hroom => ?_⟩
  have hi := Queue.insert_of_room hroom v
  exact ⟨_, hi, Queue.live_insert hcap h hroom hi u, Queue.insert_wf hcap h hi,
    Queue.advance_toNat (Queue.wf_wr_lt h) hcap, rfl, octet_succ_toNat rfl (by omega)⟩

/-- Settles O16: the removal cursor stands on the oldest live element and moves to the next. -/
theorem queueRemoveTakesOldest : Obligations.QueueRemoveTakesOldest := by
  intro α cap u q hcap h
  refine ⟨fun hempty => Queue.remove_of_empty hempty u, fun hne => ?_⟩
  have hr := Queue.remove_of_nonempty (cap := cap) hne u
  obtain ⟨-, hrd, -⟩ := id h
  exact ⟨_, _, hr, Queue.live_remove hcap h hr, Queue.remove_wf hcap h hr, Queue.advance_toNat hrd hcap, rfl,
    Nat.eq_sub_of_add_eq (octet_pred_toNat hne)⟩

/-! ## The obligations on `PUSH_PULSE` -/

/-- Settles O17: an accepted pulse is an insertion into `PQ`. -/
theorem pushPulseQueues : Obligations.PushPulseQueues := by
  intro s d hinv hen hroom
  rcases execPushPulse_cases d s with ⟨hoff, -⟩ | ⟨-, hfull, -⟩ | ⟨-, q, hq, he⟩
  · rw [hen] at hoff; cases hoff
  · exact absurd hfull hroom.ne
  · exact ⟨_, he, Queue.live_insert hinv.core.pqCap_le hinv.pulseQueue hroom hq _, rfl⟩

/-- Settles O18: the insertion overflows, so the loss is recorded. -/
theorem pushPulseOverflowRecorded : Obligations.PushPulseOverflowRecorded := by
  intro s d hen hfull
  rcases execPushPulse_cases d s with ⟨hoff, -⟩ | ⟨-, -, he⟩ | ⟨-, q, hq, -⟩
  · rw [hen] at hoff; cases hoff
  · exact ⟨_, he, rfl, countedOnce_bump s.cnt.pqOvf, rfl⟩
  · rw [Queue.insert_of_full hfull] at hq; cases hq

/-- Settles O19: of the three things `PUSH_PULSE` can do, the other two need `EDGE_EN`. -/
theorem pushPulseMasked : Obligations.PushPulseMasked := by
  intro s d hoff
  rcases execPushPulse_cases d s with ⟨-, he⟩ | ⟨hen, -⟩ | ⟨hen, -⟩
  · exact he
  · rw [hoff] at hen; cases hen
  · rw [hoff] at hen; cases hen

end Sys2Proof.Machine
end

section
/-! SUPPORT. The status a command of HOST is answered with (30_encoding.md R120, 60_exceptions.md R362, R363), and what
each refusal of a command that is not `BUSY` is caused by. -/

namespace Sys2Proof.Machine

/-! ## The checks of a command -/

/-- The status of the first check that fails, and `OK` when none does. -/
def firstRefusal : List (Bool × Status) → Status
  | [] => .ok
  | (fails, st) :: rest => if fails then st else firstRefusal rest

@[simp] theorem firstRefusal_nil : firstRefusal [] = .ok := rfl

@[simp] theorem firstRefusal_fails (st : Status) (rest : List (Bool × Status)) :
    firstRefusal ((true, st) :: rest) = st := rfl

@[simp] theorem firstRefusal_passes (st : Status) (rest : List (Bool × Status)) :
    firstRefusal ((false, st) :: rest) = firstRefusal rest := rfl

/-- A check answers its status exactly when it fails; a later check counts only when it passes. -/
@[simp] theorem firstRefusal_cons_eq_iff (fails : Bool) (st st' : Status) (rest : List (Bool × Status)) :
    firstRefusal ((fails, st) :: rest) = st' ↔ fails = true ∧ st = st' ∨ fails = false ∧ firstRefusal rest = st' := by
  cases fails with
  | true => simp
  | false => simp

/-- What each command checks, in the order of R363. `PUSH_PULSE` is no command (R119). -/
def commandChecks (s : State) : Instr → List (Bool × Status)
  | .decStep => [(s.decEn, .busy), (s.pq.isEmpty, .empty)]
  | .parseStep | .popSymbol => [(s.parEn, .busy), (s.bq.isEmpty, .empty)]
  | .feedBit _ => [(s.parEn, .busy)]
  | .rdCsr n => [((csrView s n).isNone, .badarg)]
  | .rdMsg j => [(!msgInRange s j, .badarg)]
  | .setField k _ _ => [(!fieldInRange s k, .badarg)]
  | .regAdd f l _ =>
    [(s.parEn, .busy), (!descriptorInRange s f l, .badarg), (decide (s.regCount.toNat = s.cfg.regCap), .full)]
  | .rdSlot k w => [(!slotInRange s k w, .badarg)]
  | .nop | .pushPulse _ | .reset _ | .wrCtrl _ | .loadIdLo _ | .loadIdHi _ | .clrCnt | .lookup _ => []

/-! ## When a check fails -/

section
variable (s : State)

theorem Queue.isEmpty_iff {α : Type} {q : Queue α} : q.isEmpty = true ↔ q.cnt = 0 := beq_iff_eq

theorem fieldInRange_eq_false_iff (k : BitVec 4) : fieldInRange s k = false ↔ s.cfg.maxFields ≤ k.toNat := by
  rw [fieldInRange, decide_eq_false_iff_not, not_lt]

theorem msgInRange_eq_false_iff (j : Octet) : msgInRange s j = false ↔ s.cfg.msgCap ≤ j.toNat := by
  rw [msgInRange, decide_eq_false_iff_not, not_lt]

theorem descriptorInRange_eq_false_iff (f : BitVec 5) (l : Octet) :
    descriptorInRange s f l = false ↔ s.cfg.maxFields < f.toNat ∨ l.toNat < s.cfg.minLenAll := by
  rw [descriptorInRange, decide_eq_false_iff_not, not_and_or, not_le, not_le]

theorem slotInRange_eq_false_iff (k : BitVec 4) (w : BitVec 5) :
    slotInRange s k w = false ↔ s.regCount.toNat ≤ k.toNat ∨ s.cfg.maxFields + 2 ≤ w.toNat := by
  rw [slotInRange, decide_eq_false_iff_not, not_and_or, not_lt, not_lt]

/-- The reserved CSR numbers (R55). -/
theorem csrView_eq_none_iff_reserved (n : Octet) :
    csrView s n = none ↔ 0x0A < n ∧ n < 0x10 ∨ 0x17 < n ∧ n < 0x1B ∨ 0x1F < n := by
  rw [csrView_eq_none_iff]
  unfold inCsrView
  bv_omega

end

/-! ## The answer of a command -/

/-- The outcome is a next state that holds the response of these checks. -/
def Answers (checks : List (Bool × Status)) (o : Host.Outcome State Fault Refusal) : Prop :=
  ∃ (u : State) (data : Word), o = .next (u.respond (firstRefusal checks) data)

section
variable (s u : State) (data : Word)

theorem Answers.of_eq {checks : List (Bool × Status)} {st : Status} (h : firstRefusal checks = st) :
    Answers checks (.next (u.respond st data)) := ⟨u, data, by rw [h]⟩

/-- An operation whose only check is its operand's range. -/
theorem Answers.of_range (c : Bool) : Answers [(!c, .badarg)] (if c then done u data else raise s .badarg) := by
  cases c with
  | true => exact .of_eq u data rfl
  | false => exact .of_eq s 0 rfl

/-- An operation that takes from a queue checks that ENGINE does not own the queue, then that it is not empty. -/
theorem Answers.of_queue {α : Type} {owned : Bool} {q : Queue α} {o : Host.Outcome State Fault Refusal}
    (h : owned = true ∧ o = .next (s.respond .busy 0) ∨
      owned = false ∧ q.cnt = 0 ∧ o = .next (s.respond .empty 0) ∨
      owned = false ∧ q.cnt ≠ 0 ∧ ∃ (u : State) (data : Word), o = .next (u.respond .ok data)) :
    Answers [(owned, .busy), (q.isEmpty, .empty)] o := by
  rcases h with ⟨rfl, rfl⟩ | ⟨rfl, hc, rfl⟩ | ⟨rfl, hc, u, data, rfl⟩
  · exact .of_eq s 0 rfl
  · exact .of_eq s 0 (by rw [Queue.isEmpty_iff.2 hc]; rfl)
  · exact .of_eq u data (by rw [Bool.eq_false_iff.2 (mt Queue.isEmpty_iff.1 hc)]; rfl)

theorem answers_decStep : Answers (commandChecks s .decStep) (exec .decStep s) :=
  .of_queue s ((execDecStep_cases s).imp_right (.imp_right fun ⟨hb, hc, u, w, _, he⟩ => ⟨hb, hc, u, w, he⟩))

theorem answers_parseStep : Answers (commandChecks s .parseStep) (exec .parseStep s) :=
  .of_queue s ((execParseStep_cases s).imp_right (.imp_right fun ⟨hb, hc, u, w, _, he⟩ => ⟨hb, hc, u, w, he⟩))

theorem answers_popSymbol : Answers (commandChecks s .popSymbol) (exec .popSymbol s) :=
  .of_queue s ((execPopSymbol_cases s).imp_right (.imp_right fun ⟨hb, hc, _, _, _, he⟩ => ⟨hb, hc, _, _, he⟩))

theorem answers_feedBit (b : BitVec 1) : Answers (commandChecks s (.feedBit b)) (exec (.feedBit b) s) := by
  rcases execFeedBit_cases b s with ⟨hb, he⟩ | ⟨hb, he⟩ <;> rw [he, commandChecks, hb]
  · exact .of_eq s 0 rfl
  · exact .of_eq _ _ rfl

theorem answers_rdCsr (n : Octet) : Answers (commandChecks s (.rdCsr n)) (exec (.rdCsr n) s) := by
  simp only [exec, execRdCsr, commandChecks]
  cases csrView s n with
  | none => exact .of_eq s 0 rfl
  | some w => exact .of_eq s w rfl

theorem answers_regAdd (f : BitVec 5) (l c : Octet) :
    Answers (commandChecks s (.regAdd f l c)) (exec (.regAdd f l c) s) := by
  rcases execRegAdd_cases f l c s with ⟨hb, he⟩ | ⟨hb, hr, he⟩ | ⟨hb, hr, hf, he⟩ | ⟨hb, hr, hf, he⟩ <;>
    rw [he, commandChecks, hb]
  · exact .of_eq s 0 rfl
  · exact .of_eq s 0 (by rw [descriptorInRange, decide_eq_false hr]; rfl)
  · exact .of_eq s 0 (by simp [descriptorInRange, hr, hf])
  · exact .of_eq _ _ (by simp [descriptorInRange, hr, hf])

/-- Every command is answered with the status of its checks (R119, R120, R363). -/
theorem exec_answers {i : Instr} (hi : i.wellFormed .host = true) : Answers (commandChecks s i) (exec i s) := by
  cases i with
  | pushPulse d => cases hi
  | decStep => exact answers_decStep s
  | parseStep => exact answers_parseStep s
  | popSymbol => exact answers_popSymbol s
  | feedBit b => exact answers_feedBit s b
  | rdCsr n => exact answers_rdCsr s n
  | rdMsg j => exact .of_range ..
  | setField k a e => exact .of_range ..
  | regAdd f l c => exact answers_regAdd s f l c
  | rdSlot k w => exact .of_range ..
  | nop | reset m | wrCtrl c | loadIdLo h | loadIdHi h | clrCnt | lookup c => exact .of_eq _ _ rfl

/-! ## The causes of each status -/

/-- Only the five operations with a range can find a value outside it (R362). -/
theorem status_badarg_iff (i : Instr) : firstRefusal (commandChecks s i) = .badarg ↔
    (∃ k a e, i = .setField k a e ∧ s.cfg.maxFields ≤ k.toNat) ∨
    (∃ f l c, i = .regAdd f l c ∧ s.parEn = false ∧ (s.cfg.maxFields < f.toNat ∨ l.toNat < s.cfg.minLenAll)) ∨
    (∃ k w, i = .rdSlot k w ∧ (s.regCount.toNat ≤ k.toNat ∨ s.cfg.maxFields + 2 ≤ w.toNat)) ∨
    (∃ n, i = .rdCsr n ∧ (0x0A < n ∧ n < 0x10 ∨ 0x17 < n ∧ n < 0x1B ∨ 0x1F < n)) ∨
    (∃ j, i = .rdMsg j ∧ s.cfg.msgCap ≤ j.toNat) := by
  simp only [← csrView_eq_none_iff_reserved s, ← fieldInRange_eq_false_iff, ← descriptorInRange_eq_false_iff,
    ← slotInRange_eq_false_iff, ← msgInRange_eq_false_iff]
  cases i with
  | setField k a e | regAdd f l c | rdSlot k w | rdCsr n | rdMsg j => simp [commandChecks]
  | _ => simp [commandChecks]

/-- Only `REG_ADD` can find the registry full. -/
theorem status_full_iff (i : Instr) : firstRefusal (commandChecks s i) = .full ↔
    ∃ f l c, i = .regAdd f l c ∧ s.parEn = false ∧
      ¬ (s.cfg.maxFields < f.toNat ∨ l.toNat < s.cfg.minLenAll) ∧ s.regCount.toNat = s.cfg.regCap := by
  simp only [← descriptorInRange_eq_false_iff]
  cases i with
  | regAdd f l c => simp [commandChecks]
  | _ => simp [commandChecks]

/-- Only the operations that take from a queue can find one empty. -/
theorem status_empty_iff (i : Instr) : firstRefusal (commandChecks s i) = .empty ↔
    (i = .decStep ∧ s.decEn = false ∧ s.pq.cnt = 0) ∨
    ((i = .parseStep ∨ i = .popSymbol) ∧ s.parEn = false ∧ s.bq.cnt = 0) := by
  simp only [← Queue.isEmpty_iff]
  cases i with
  | decStep | parseStep | popSymbol => simp [commandChecks]
  | _ => simp [commandChecks]

/-- No check of a command that was decoded answers `ILLEGAL` (R115, R116). -/
theorem status_ne_illegal (i : Instr) : firstRefusal (commandChecks s i) ≠ .illegal := by
  intro h
  cases i with
  | _ => simp [commandChecks] at h

end

/-- Settles O56: the status is that of the first check that fails, and each status belongs to one kind of check. -/
theorem refusalCauses : Obligations.RefusalCauses := by
  intro s t i r hi he hrsp
  obtain ⟨u, data, hu⟩ := exec_answers s hi
  obtain rfl := Host.Outcome.next.inj (hu.symm.trans he)
  obtain rfl := Option.some.inj hrsp
  exact ⟨status_badarg_iff s i, status_full_iff s i, status_empty_iff s i, status_ne_illegal s i⟩

end Sys2Proof.Machine
end

section
/-! SUPPORT. The ManchesterDecoder (41_decoder.md): the pulse classes, `Decode` on one pulse, what `DEC_STEP` and
`POP_SYMBOL` do with the oldest element of their queues, and runs of pulses. -/

namespace Sys2Proof.Machine

/-! ## Classification (R181) -/

section
variable {c : Params} {d : Pulse}

theorem classify_eq_out_iff : classify c d = .out ↔ d.toNat < c.tMin ∨ c.tMax ≤ d.toNat := by
  unfold classify
  split_ifs with hout hsplit
  · exact iff_of_true rfl hout
  · exact iff_of_false nofun hout
  · exact iff_of_false nofun hout

theorem classify_eq_short_iff :
    classify c d = .short ↔ c.tMin ≤ d.toNat ∧ d.toNat < c.tMax ∧ d.toNat < c.tSplit := by
  unfold classify
  split_ifs with hout hsplit
  · exact iff_of_false nofun (by omega)
  · exact iff_of_true rfl (by omega)
  · exact iff_of_false nofun (by omega)

theorem classify_eq_long_iff :
    classify c d = .long ↔ c.tMin ≤ d.toNat ∧ d.toNat < c.tMax ∧ c.tSplit ≤ d.toNat := by
  unfold classify
  split_ifs with hout hsplit
  · exact iff_of_false nofun (by omega)
  · exact iff_of_false nofun (by omega)
  · exact iff_of_true rfl (by omega)

end

/-- Settles O20: the branches of `Classify` are these conditions, and the boundary durations are decided by them. -/
theorem pulseWindow : Obligations.PulseWindow := by
  refine ⟨fun c d => ⟨classify_eq_out_iff, classify_eq_short_iff, classify_eq_long_iff⟩, fun c hmin hsplit hmax => ?_⟩
  simp [classify_eq_out_iff, classify_eq_short_iff, classify_eq_long_iff, hmin, hsplit, hmax]

/-! ## The oldest element of a queue -/

/-- A queue with a live element gives up the oldest one, and the others stay (R153). -/
theorem Queue.remove_of_live {α : Type} {cap : Nat} {q : Queue α} {u : Nat → α} {v : α} {rest : List α}
    (hcap : cap ≤ 255) (h : Queue.wf cap q) (hl : q.live cap u = v :: rest) :
    ∃ q', q.remove cap u = some (v, q') ∧ q'.live cap u = rest := by
  have hne : q.cnt ≠ 0 := by
    intro hzero
    simp [Queue.live, hzero] at hl
  have hr := Queue.remove_of_nonempty (cap := cap) hne u
  have hlive := Queue.live_remove hcap h hr
  rw [hl] at hlive
  obtain ⟨hv, hrest⟩ := List.cons.inj hlive
  exact ⟨_, hv ▸ hr, hrest.symm⟩

section
variable {s : State} {d : Pulse} {y : Symbol}

/-- `POP_SYMBOL` with a symbol oldest in `BQ` (R193). -/
theorem exec_popSymbol_of_symbol {rest : List Symbol} (h : Inv s) (hen : s.parEn = false) (hy : s.symbols = y :: rest) :
    ∃ q, State.symbols { s with bq := q } = rest ∧
      exec .popSymbol s = .next (({ s with bq := q } : State).respond .ok ((symbolCode y).setWidth 32)) := by
  obtain ⟨q, hq, hrest⟩ := Queue.remove_of_live h.core.bqCap_le h.bitQueue hy
  have hpop : s.popBq = some (y, { s with bq := q }) := by rw [State.popBq, hq]; rfl
  exact ⟨q, hrest, by simp [exec, execPopSymbol, hen, hpop, done]⟩

/-- `DEC_STEP` with a pulse oldest in `PQ` decodes it and answers with its result word (R190). -/
theorem exec_decStep_of_pulse {rest : List Pulse} (h : Inv s) (hen : s.decEn = false) (hd : s.pulses = d :: rest) :
    ∃ q, State.pulses { s with pq := q } = rest ∧
      exec .decStep s = .next ((decodeStep d { s with pq := q }).1.respond .ok
        (decResult d (decodeStep d { s with pq := q }).2)) := by
  obtain ⟨q, hq, hrest⟩ := Queue.remove_of_live h.core.pqCap_le h.pulseQueue hd
  have hpop : s.popPq = some (d, { s with pq := q }) := by rw [State.popPq, hq]; rfl
  exact ⟨q, hrest, execDecStep_of_run hen (by simp [runDecStep, hpop])⟩

/-! ## `emit` (R186) -/

/-- `emit` offers its symbol to `BQ` and touches nothing but `BQ`, `BQ_OVF` and `CNT_BQ_OVF`. -/
theorem emit_offers (hcap : s.cfg.bqCap ≤ 255) (hwf : Queue.wf s.cfg.bqCap s.bq) (y : Symbol) :
    ∃ q ovf n lost, emit y s = ({ s with bq := q, bqOvf := ovf, cnt := { s.cnt with bqOvf := n } }, lost) ∧
      symbolOffered y lost s { s with bq := q, bqOvf := ovf, cnt := { s.cnt with bqOvf := n } } := by
  rcases emit_cases y s with ⟨q, hq, he⟩ | ⟨hfull, he⟩
  · have hne : s.bq.cnt.toNat ≠ s.cfg.bqCap := fun hfull => by
      rw [Queue.insert_of_full hfull] at hq
      cases hq
    obtain ⟨hle, -⟩ := id hwf
    have hroom : s.bq.cnt.toNat < s.cfg.bqCap := lt_of_le_of_ne hle hne
    refine ⟨q, s.bqOvf, s.cnt.bqOvf, false, he, ?_⟩
    rw [symbolOffered, if_neg hne]
    exact ⟨rfl, Queue.live_insert hcap hwf hroom hq _, rfl, rfl⟩
  · refine ⟨s.bq, true, bump s.cnt.bqOvf, true, he, ?_⟩
    rw [symbolOffered, if_pos hfull]
    exact ⟨rfl, rfl, rfl, countedOnce_bump _⟩

/-! ## The transition of an in-range pulse (R183) -/

/-- The half-clock counter modulo 2 does not see the 2 that the long action adds. -/
theorem Decoder.longAction_eq (x : Decoder) : x.longAction = ⟨~~~x.cur, x.hc, false⟩ := by
  have hadd : ∀ b : BitVec 1, b + 2 = b := by decide
  rw [Decoder.longAction, hadd]

theorem Decoder.shortAction_eq (x : Decoder) : x.shortAction = ⟨x.cur, ~~~x.hc, x.first⟩ := by
  have hadd : ∀ b : BitVec 1, b + 1 = ~~~b := by decide
  rw [Decoder.shortAction, hadd]

theorem takesLong_iff {c : PulseClass} {first : Bool} : takesLong c first = true ↔ c = .long ∨ first = true := by
  simp [takesLong]

theorem transitioned_of_long (h : classify s.cfg d = .long ∨ s.dec.first = true) :
    transitioned d s = ⟨~~~s.dec.cur, s.dec.hc, false⟩ := by
  rw [transitioned, if_pos (takesLong_iff.2 h), Decoder.longAction_eq]

theorem transitioned_of_short (h : ¬ (classify s.cfg d = .long ∨ s.dec.first = true)) :
    transitioned d s = ⟨s.dec.cur, ~~~s.dec.hc, s.dec.first⟩ := by
  rw [transitioned, if_neg (mt takesLong_iff.1 h), Decoder.shortAction_eq]

/-! ## The result word (R191) -/

theorem decResult_of_bit (d : Pulse) (c : PulseClass) (long lost : Bool) (b : BitVec 1) :
    decResult d ⟨c, long, some (symbolOfBit b), lost⟩ =
      d ++ 0#1 ++ BitVec.ofBool long ++ classCode c ++ BitVec.ofBool lost ++ 0#1 ++ b ++ 1#1 := by
  simp only [decResult, Option.map_some, Option.getD_some, symbolCode_symbolOfBit]
  rw [BitVec.append_assoc' (x₂ := 0#1) (x₃ := b)]
  rfl

/-- The fields of a lost symbol, its code and its presence are the last four bits, all 0. -/
theorem decResult_of_none (d : Pulse) (c : PulseClass) (long : Bool) :
    decResult d ⟨c, long, none, false⟩ = d ++ 0#1 ++ BitVec.ofBool long ++ classCode c ++ 0#4 := by
  simp only [decResult, Option.map_none, Option.getD_none]
  exact (BitVec.append_assoc (x₃ := 0#1)).trans (BitVec.append_assoc (x₃ := 0#3))

end

/-! ## The obligations on `DEC_STEP` and `POP_SYMBOL` -/

/-- Settles O21: the pulse is removed, then `Decode` resets the decoder, counts and emits `Resync`. -/
theorem decStepOutOfRange : Obligations.DecStepOutOfRange := by
  intro s d rest hinv hen hd hout
  obtain ⟨q, hrest, he⟩ := exec_decStep_of_pulse hinv hen hd
  obtain ⟨bq, ovf, n, lost, hemit, hoff⟩ := emit_offers (s := (State.decReset { s with pq := q }).countResync)
    hinv.core.bqCap_le hinv.bitQueue .resync
  rw [decodeStep_of_out (s := { s with pq := q }) hout, hemit] at he
  exact ⟨_, lost, he, hrest, rfl, countedOnce_bump s.cnt.resync, hoff, rfl, rfl⟩

/-- Settles O22: the transition is the action of R183's table, and the phase it leaves decides whether `Decode` emits. -/
theorem decStepInRange : Obligations.DecStepInRange := by
  intro s d rest long cls dec hinv hen hd hcls hlong hdec
  obtain ⟨q, hrest, he⟩ := exec_decStep_of_pulse hinv hen hd
  obtain ⟨hin, hcode⟩ : classify s.cfg d ≠ .out ∧ cls = classCode (classify s.cfg d) := by
    rcases hcls with ⟨hc, rfl⟩ | ⟨hc, rfl⟩
    · rw [hc]; exact ⟨nofun, rfl⟩
    · rw [hc]; exact ⟨nofun, rfl⟩
  have htakes : long = takesLong (classify s.cfg d) s.dec.first := Bool.eq_iff_iff.2 (hlong.trans takesLong_iff.symm)
  have htrans : transitioned d { s with pq := q } = dec := by
    rw [hdec]
    split_ifs with hl
    · exact transitioned_of_long (s := { s with pq := q }) (hlong.1 hl)
    · exact transitioned_of_short (s := { s with pq := q }) (mt hlong.2 hl)
  by_cases hhc : dec.hc = 0
  · obtain ⟨bq, ovf, n, lost, hemit, hoff⟩ := emit_offers (s := { s with pq := q, dec := dec })
      hinv.core.bqCap_le hinv.bitQueue (symbolOfBit dec.cur)
    rw [decodeStep_of_boundary (s := { s with pq := q }) hin (htrans ▸ hhc), htrans, hemit, decResult_of_bit,
      ← hcode, ← htakes] at he
    exact ⟨_, lost, he, hrest, rfl, fun _ => ⟨hoff, rfl⟩, fun hone => absurd (hhc.symm.trans hone) (by decide), rfl⟩
  · rw [decodeStep_of_middle (s := { s with pq := q }) hin (htrans ▸ hhc), htrans, decResult_of_none,
      ← hcode, ← htakes] at he
    exact ⟨_, false, he, hrest, rfl, fun hzero => absurd hzero hhc, fun _ => ⟨⟨rfl, rfl, rfl⟩, rfl⟩, rfl⟩

/-- Settles O24: the removal leaves the other symbols, and a symbol's code, widened, is its number. -/
theorem popSymbolTakesOldest : Obligations.PopSymbolTakesOldest := by
  intro s y rest hinv hen hy
  obtain ⟨q, hrest, he⟩ := exec_popSymbol_of_symbol hinv hen hy
  refine ⟨_, he, hrest, ?_, rfl⟩
  cases y with
  | zero | one | resync => rfl

/-! ## Runs of pulses (R187) -/

section
variable {s : State} {d short long : Pulse} {dec : Decoder} {prev : BitVec 1}

/-- A pulse that ends at a bit boundary produces the current bit, and the run goes on from the decoder it leaves, with the
same parameters. -/
theorem decodedSymbols_cons_of_boundary (hin : classify s.cfg d ≠ .out) (htrans : transitioned d s = dec)
    (hhc : dec.hc = 0) : ∃ t : State, t.cfg = s.cfg ∧ t.dec = dec ∧
      ∀ rest, decodedSymbols (d :: rest) s = symbolOfBit dec.cur :: decodedSymbols rest t := by
  subst htrans
  refine ⟨(emit (symbolOfBit (transitioned d s).cur) { s with dec := transitioned d s }).1, by rw [emit_frame],
    by rw [emit_frame], fun rest => ?_⟩
  simp only [decodedSymbols, decodeStep_of_boundary hin hhc, Option.toList_some, List.singleton_append]

/-- A pulse that ends mid-bit produces nothing. -/
theorem decodedSymbols_cons_of_middle (hin : classify s.cfg d ≠ .out) (htrans : transitioned d s = dec)
    (hhc : dec.hc ≠ 0) (rest : List Pulse) :
    decodedSymbols (d :: rest) s = decodedSymbols rest { s with dec := dec } := by
  subst htrans
  simp only [decodedSymbols, decodeStep_of_middle hin hhc, Option.toList_none, List.nil_append]

/-- A pulse that takes the long action at a bit boundary produces the complement of the current bit. -/
theorem decodedSymbols_cons_of_flip {first : Bool} (hdec : s.dec = ⟨prev, 0, first⟩) (hin : classify s.cfg d ≠ .out)
    (hlong : classify s.cfg d = .long ∨ first = true) : ∃ t : State, t.cfg = s.cfg ∧ t.dec = ⟨~~~prev, 0, false⟩ ∧
      ∀ rest, decodedSymbols (d :: rest) s = symbolOfBit (~~~prev) :: decodedSymbols rest t :=
  decodedSymbols_cons_of_boundary hin (by rw [transitioned_of_long (by rwa [hdec]), hdec]) rfl

/-- Two short pulses at a bit boundary, by way of mid-bit, produce the current bit again. -/
theorem decodedSymbols_cons_of_repeat (hdec : s.dec = ⟨prev, 0, false⟩) (hd : classify s.cfg d = .short) :
    ∃ t : State, t.cfg = s.cfg ∧ t.dec = ⟨prev, 0, false⟩ ∧
      ∀ rest, decodedSymbols (d :: d :: rest) s = symbolOfBit prev :: decodedSymbols rest t := by
  have hin : classify s.cfg d ≠ .out := by simp [hd]
  have hleave : transitioned d s = ⟨prev, 1, false⟩ := by
    simp [transitioned_of_short, hd, hdec]
  have hreturn : transitioned d { s with dec := ⟨prev, 1, false⟩ } = ⟨prev, 0, false⟩ := by
    simp [transitioned_of_short, hd]
  obtain ⟨t, hcfg, ht, hrun⟩ :=
    decodedSymbols_cons_of_boundary (s := { s with dec := ⟨prev, 1, false⟩ }) hin hreturn rfl
  have hmid : (1 : BitVec 1) ≠ 0 := by decide
  exact ⟨t, hcfg, ht, fun rest => (decodedSymbols_cons_of_middle hin hleave hmid _).trans (hrun rest)⟩

theorem bit_not_eq_of_ne : ∀ {b b' : BitVec 1}, b ≠ b' → ~~~b' = b := by decide

/-- From a bit boundary the pulses R187 gives for a run of bits decode to it. -/
theorem decodedSymbols_manchester {bits : List (BitVec 1)} (hdec : s.dec = ⟨prev, 0, false⟩)
    (hs : classify s.cfg short = .short) (hl : classify s.cfg long = .long) :
    decodedSymbols (manchester short long prev bits) s = bits.map symbolOfBit := by
  induction bits generalizing s prev with
  | nil => rfl
  | cons b bits ih =>
    by_cases hb : b = prev
    · obtain ⟨t, hcfg, ht, hrun⟩ := decodedSymbols_cons_of_repeat hdec hs
      rw [manchester, if_pos hb, List.cons_append, List.cons_append, List.nil_append, hrun, ← hb,
        ih (hb ▸ ht) (by rwa [hcfg]) (by rwa [hcfg]), List.map_cons]
    · obtain ⟨t, hcfg, ht, hrun⟩ := decodedSymbols_cons_of_flip hdec (by simp [hl]) (.inl hl)
      have hflip : ~~~prev = b := bit_not_eq_of_ne hb
      rw [manchester, if_neg hb, List.cons_append, List.nil_append, hrun, hflip,
        ih (hflip ▸ ht) (by rwa [hcfg]) (by rwa [hcfg]), List.map_cons]

end

/-- Settles O23: the first pulse after a reset takes the long action whatever its class, and leaves a bit boundary. -/
theorem manchesterRoundTrip : Obligations.ManchesterRoundTrip := by
  intro s short long first bits hs hl
  refine ⟨fun hfirst hhc => ?_, fun hdec hin => ?_⟩
  · have hdec : s.dec = ⟨s.dec.cur, 0, false⟩ := by rw [← hfirst, ← hhc]
    exact decodedSymbols_manchester hdec hs hl
  · obtain ⟨t, hcfg, ht, hrun⟩ := decodedSymbols_cons_of_flip hdec hin (.inr rfl)
    rw [hrun, decodedSymbols_manchester ht (by rwa [hcfg]) (by rwa [hcfg]), List.map_cons]

end Sys2Proof.Machine
end

section
/-! SUPPORT. One bit fed to the parser (42_parser.md R221 to R229, R253, R254): discarded, shifted in, or the last of a
nibble. -/

namespace Sys2Proof.Machine

section
variable {s : State} {b q : BitVec 1}

/-! ## The device id and the channel (R238, R239) -/

/-- A field set below another weighs it by its own width. -/
theorem append_toNat {m n : Nat} (x : BitVec m) (y : BitVec n) : (x ++ y).toNat = x.toNat * 2 ^ n + y.toNat := by
  rw [BitVec.toNat_append, ← Nat.shiftLeft_add_eq_or_of_lt y.isLt, Nat.shiftLeft_eq]

theorem fourNibbles_toNat (n₃ n₂ n₁ n₀ : Nibble) : ((n₃ ++ n₂ ++ n₁ ++ n₀ : BitVec 16).setWidth 32).toNat =
    n₃.toNat * 4096 + n₂.toNat * 256 + n₁.toNat * 16 + n₀.toNat := by
  rw [BitVec.toNat_setWidth_of_le (by decide), append_toNat, append_toNat, append_toNat]
  omega

/-! ## A delivered bit -/

theorem exec_feedBit_of_idle (hen : s.parEn = false) (b : BitVec 1) :
    exec (.feedBit b) s = .next (answered b (deliver (symbolOfBit b) s)) := by
  rcases execFeedBit_cases b s with ⟨hbusy, -⟩ | ⟨-, he⟩
  · simp [hen] at hbusy
  · exact he

theorem deliver_symbolOfBit (hne : s.par.state ≠ .complete) (b : BitVec 1) :
    deliver (symbolOfBit b) s = deliverBit b s := by
  rcases deliver_cases (symbolOfBit b) s with ⟨hc, -⟩ | ⟨-, hr, -⟩ | ⟨-, -, hd⟩
  · exact absurd hc hne
  · exact absurd hr (symbolOfBit_ne_resync b)
  · rw [hd, bitOf_symbolOfBit]

theorem deliver_of_complete (hst : s.par.state = .complete) (y : Symbol) :
    deliver y s = (s.countDiscard, { discarded := true }) := by
  rcases deliver_cases y s with ⟨-, hd⟩ | ⟨hne, -⟩ | ⟨hne, -⟩
  · exact hd
  · exact absurd hst hne
  · exact absurd hst hne

/-! ## The search for the sync nibble (R225 to R227) -/

theorem accept_slides {r : ParseRecord} (hst : s.par.state = .sync) (hn : nextNibble s b ≠ syncNibble) :
    accept b s r = ({ s with par := { s.par with nib := nextNibble s b } }, r) := by
  rw [nextNibble, ← shiftBit_eq_append] at hn ⊢
  rcases accept_cases b s r with ⟨-, hsync, -⟩ | ⟨-, -, he⟩ | ⟨h | h, -⟩ | ⟨h | h, -⟩ | h
  · exact absurd hsync hn
  · exact he
  all_goals exact ParState.noConfusion (hst.symm.trans h)

theorem accept_locks {r : ParseRecord} (hst : s.par.state = .sync) (hn : nextNibble s b = syncNibble) :
    accept b s r = ({ s with par := { s.par with nib := syncNibble, state := .ident, sub := 0, idx := 0 } }, r) := by
  rw [nextNibble, ← shiftBit_eq_append] at hn
  rcases accept_cases b s r with ⟨-, -, he⟩ | ⟨-, hsync, -⟩ | ⟨h | h, -⟩ | ⟨h | h, -⟩ | h
  · exact he
  · exact absurd hn hsync
  all_goals exact ParState.noConfusion (hst.symm.trans h)

/-! ## What an accepted bit does not touch -/

/-- No transition of the parser but the filter and a reset touches `BITPAR` (R45, R222). -/
theorem identify_bitpar (s : State) : (identify s).par.bitpar = s.par.bitpar := by
  rcases identify_cases s with ⟨-, he⟩ | ⟨k, -, he⟩
  · rw [he]; rfl
  · rw [he]; rfl

theorem complete_bitpar (s : State) (r : ParseRecord) : (complete s r).1.par.bitpar = s.par.bitpar := by
  rcases complete_cases s r with ⟨-, he⟩ | ⟨-, he⟩
  · rw [he]
  · rw [he]; rfl

theorem nibbleDone_bitpar (s : State) (r : ParseRecord) : (nibbleDone s r).1.par.bitpar = s.par.bitpar := by
  rcases nibbleDone_cases s r with ⟨-, he⟩ | ⟨-, ⟨-, -, he⟩ | ⟨-, -, he⟩ | ⟨-, -, he⟩⟩ <;> rw [he]
  · rfl
  · exact identify_bitpar (storeNibble s)
  · exact complete_bitpar (storeNibble s) r
  · rfl

theorem accept_bitpar (hne : s.par.state ≠ .complete) (b : BitVec 1) (r : ParseRecord) :
    (accept b s r).1.par.bitpar = s.par.bitpar := by
  rcases accept_cases b s r with ⟨-, -, he⟩ | ⟨-, -, he⟩ | ⟨-, -, he⟩ | ⟨-, -, he⟩ | h
  · rw [he]
  · rw [he]
  · rw [he]; exact nibbleDone_bitpar ..
  · rw [he]
  · exact absurd h hne

/-- Of the record an accepted bit changes only the verdict (R221, R250). -/
theorem nibbleDone_accepted (s : State) (r : ParseRecord) : (nibbleDone s r).2.accepted = r.accepted := by
  rcases nibbleDone_cases s r with ⟨-, he⟩ | ⟨-, ⟨-, -, he⟩ | ⟨-, -, he⟩ | ⟨-, -, he⟩⟩
  · rw [he]
  · rw [he]
  · rw [he]
    rcases complete_cases (storeNibble s) r with ⟨-, hv⟩ | ⟨-, hv⟩
    · rw [hv]
    · rw [hv]
  · rw [he]

theorem accept_accepted (hne : s.par.state ≠ .complete) (b : BitVec 1) (r : ParseRecord) :
    (accept b s r).2.accepted = r.accepted := by
  rcases accept_cases b s r with ⟨-, -, he⟩ | ⟨-, -, he⟩ | ⟨-, -, he⟩ | ⟨-, -, he⟩ | h
  · rw [he]
  · rw [he]
  · rw [he]; exact nibbleDone_accepted ..
  · rw [he]
  · exact absurd h hne

/-- Bit 2 of the result word is the record's `accepted` (R253). -/
theorem parseResult_bit_two (y : Symbol) (t : State) (r : ParseRecord) :
    (parseResult y t r).getLsbD 2 = r.accepted := by
  simp only [parseResult, @BitVec.getLsbD_append 31 1, @BitVec.getLsbD_append 30 1, @BitVec.getLsbD_append 29 1]
  simp

end

/-! ## The obligations on one bit -/

/-- Settles O30. -/
theorem deviceIdPacking : Obligations.DeviceIdPacking := by
  rintro s k rfl
  exact ⟨fourNibbles_toNat .., BitVec.toNat_setWidth_of_le (by decide)⟩

/-- Settles O26: the bit is accepted, and `Accept` compares the shifted nibble with the sync nibble. -/
theorem syncSearchSlides : Obligations.SyncSearchSlides := by
  intro s b q hen hq hst
  rw [exec_feedBit_accepted hen hq (by simp [hst])]
  refine ⟨fun hn => ?slides, fun hn => ?locks⟩
  case slides =>
    rw [accept_slides (s := s.withParity q) hst hn, answered, parseResult_accepted]
    simp only [State.withParity, hst]
    rfl
  case locks =>
    rw [accept_locks (s := s.withParity q) hst hn, answered, parseResult_accepted]
    rfl

/-- Settles O27. -/
theorem bitWithinNibble : Obligations.BitWithinNibble := by
  intro s b q p hen hq hsub hst
  rcases hst with ⟨hst, rfl⟩ | ⟨hst, rfl⟩
  · rw [exec_feedBit_within hen hq hsub (.inl hst), hst]; rfl
  · rw [exec_feedBit_within hen hq hsub (.inr hst), hst]; rfl

/-- Settles O28: a nibble that ends neither the identity nor the message is only stored. -/
theorem nibbleStoredAtIndex : Obligations.NibbleStored := by
  intro s b q p hen hq hsub hlt hcap hst
  have hsucc := idx_succ_toNat hcap hlt
  rcases hst with ⟨hst, rfl, hnid⟩ | ⟨hst, rfl, hnlast⟩
  · have he := exec_feedBit_store (b := b) hen hq hsub (.inl hst) hlt (fun h => hnid (hsucc ▸ h.2))
      (by simp [hst])
    rw [hst] at he
    exact ⟨_, he, storedNibble_nibbleStored s b q, rfl, rfl, rfl⟩
  · have he := exec_feedBit_store (b := b) hen hq hsub (.inr hst) hlt (by simp [hst])
      (fun h => hnlast (by rw [← hsucc, h.2]))
    rw [hst] at he
    exact ⟨_, he, storedNibble_nibbleStored s b q, rfl, rfl, rfl⟩

/-- Settles O36: one clause for each case of the filter, an accepted bit being one that `Accept` takes. -/
theorem bitFilter : Obligations.BitFilter := by
  intro s b hen hne
  refine ⟨_, _, exec_feedBit_of_idle hen b, rfl, rfl, ?_⟩
  rw [deliver_symbolOfBit hne, answered, parseResult_bit_two]
  rcases deliverBit_cases b s with ⟨hp, he⟩ | ⟨hp, hb, he⟩ | ⟨hp, hb, he⟩ <;> rw [he]
  · exact ⟨fun _ => ⟨accept_bitpar hne b _, accept_accepted hne b _⟩, by simp [hp], by simp [hp]⟩
  · refine ⟨by simp [hp], fun _ _ => ⟨?_, accept_accepted (s := flipParity s) hne b _⟩, by simp [hb]⟩
    exact (accept_bitpar (s := flipParity s) hne b _).trans (by simp [flipParity, hb])
  · refine ⟨by simp [hp], fun _ h0 => absurd h0 hb, fun _ h1 => ⟨?_, rfl⟩⟩
    have hflip : flipParity s = s.withParity 0 := by simp [flipParity, State.withParity, h1]
    rw [hflip]
    rfl

end Sys2Proof.Machine
end

section
/-! SUPPORT. One symbol of `BQ` delivered to the parser (42_parser.md R221, R223, R252): what the delivery leaves is the
same whether the symbol came from `BQ` or from `FEED_BIT`. -/

namespace Sys2Proof.Machine

/-! ## The parser does not read `BQ` -/

/-- The state with another `BQ`. -/
def State.withBq (s : State) (bq : Queue Symbol) : State := { s with bq := bq }

/-- A state with its result, under another `BQ`. -/
def withBqFst {β : Type} (bq : Queue Symbol) (r : State × β) : State × β := (r.1.withBq bq, r.2)

section
variable (bq : Queue Symbol)

theorem State.withBq_par (s : State) : (s.withBq bq).par = s.par := rfl

theorem identify_withBq (s : State) : identify (s.withBq bq) = (identify s).withBq bq := by
  have hkey : regLookup (s.withBq bq) (deviceId (s.withBq bq)) (channel (s.withBq bq)) =
      regLookup s (deviceId s) (channel s) := rfl
  rw [identify, identify, hkey]
  cases regLookup s (deviceId s) (channel s) with
  | none => rfl
  | some k => rfl

theorem complete_withBq (s : State) (r : ParseRecord) : complete (s.withBq bq) r = withBqFst bq (complete s r) := by
  have hcalc : checksumCalc (s.withBq bq) = checksumCalc s := rfl
  have hrecv : checksumRecv (s.withBq bq) = checksumRecv s := rfl
  simp only [complete, hcalc, hrecv]
  split_ifs
  · rfl
  · rfl

theorem nibbleDone_withBq (s : State) (r : ParseRecord) :
    nibbleDone (s.withBq bq) r = withBqFst bq (nibbleDone s r) := by
  have hcfg (u : State) : (u.withBq bq).cfg = u.cfg := rfl
  have hproto (u : State) : (u.withBq bq).proto = u.proto := rfl
  have hstore : storeNibble (s.withBq bq) = (storeNibble s).withBq bq := rfl
  simp only [nibbleDone, hcfg, hproto, State.withBq_par, hstore, identify_withBq, complete_withBq]
  split_ifs
  · rfl
  · rfl
  · rfl
  · rfl

theorem accept_withBq (b : BitVec 1) (s : State) (r : ParseRecord) :
    accept b (s.withBq bq) r = withBqFst bq (accept b s r) := by
  cases hst : s.par.state with
  | sync =>
    simp only [accept, State.withBq_par, hst]
    split_ifs
    · rfl
    · rfl
  | complete => simp only [accept, State.withBq_par, hst]; rfl
  | ident | body =>
    simp only [accept, State.withBq_par, hst]
    split_ifs
    · exact nibbleDone_withBq bq { s with par := _ } r
    · rfl

theorem filterBit_withBq (s : State) : filterBit (s.withBq bq) = withBqFst bq (filterBit s) := by
  have hproto : (s.withBq bq).proto = s.proto := rfl
  rw [filterBit, filterBit, hproto]
  cases s.proto with
  | v3 => rfl
  | v21 => rfl

theorem deliverBit_withBq (b : BitVec 1) (s : State) : deliverBit b (s.withBq bq) = withBqFst bq (deliverBit b s) := by
  simp only [deliverBit, filterBit_withBq, withBqFst, accept_withBq]
  split_ifs
  · rfl
  · rfl

theorem deliver_withBq (y : Symbol) (s : State) : deliver y (s.withBq bq) = withBqFst bq (deliver y s) := by
  by_cases hst : s.par.state = .complete
  · rw [deliver_of_complete hst, deliver_of_complete (s := s.withBq bq) hst]; rfl
  · simp only [deliver, State.withBq_par, hst, if_false]
    cases y with
    | resync => rfl
    | one => exact deliverBit_withBq bq 1 s
    | zero => exact deliverBit_withBq bq 0 s

end

/-! ## `PARSE_STEP` -/

section
variable {s : State} {y : Symbol} {rest : List Symbol}

/-- `PARSE_STEP` with a symbol oldest in `BQ` removes it, delivers it and answers with its result word (R252). -/
theorem exec_parseStep_of_symbol (h : Inv s) (hen : s.parEn = false) (hy : s.symbols = y :: rest) :
    ∃ bq, (s.withBq bq).symbols = rest ∧
      exec .parseStep s = .next (((deliver y s).1.withBq bq).respond .ok
        (parseResult y (deliver y s).1 (deliver y s).2)) := by
  obtain ⟨bq, hbq, hrest⟩ := Queue.remove_of_live h.core.bqCap_le h.bitQueue hy
  have hpop : s.popBq = some (y, s.withBq bq) := by rw [State.popBq, hbq]; rfl
  refine ⟨bq, hrest, execParseStep_of_run hen ?_⟩
  simp only [runParseStep, hpop, deliver_withBq]
  rfl

/-- A delivery leaves `BQ` as it was. -/
theorem deliver_bq (y : Symbol) (s : State) : (deliver y s).1.bq = s.bq := by rw [deliver_frame]

/-- The live symbols are those of `BQ`, which a delivery does not read. -/
theorem deliver_withBq_symbols (y : Symbol) (s : State) (bq : Queue Symbol) :
    ((deliver y s).1.withBq bq).symbols = (s.withBq bq).symbols := by
  rw [deliver_frame]; rfl

end

theorem discardedWord_layout : ∀ (p : BitVec 2) (b : BitVec 1),
    (0#22 ++ p ++ 0#2 ++ (0#1 ++ b) ++ BitVec.ofBool true ++ BitVec.ofBool false ++ BitVec.ofBool false ++
      BitVec.ofBool false : Word) = 0#22 ++ p ++ 0#3 ++ b ++ 0b1000#4 := by
  decide

/-- The result word of a data bit discarded in `COMPLETE` (R253). -/
theorem parseResult_discarded (b : BitVec 1) (t : State) : parseResult (symbolOfBit b) t { discarded := true } =
    0#22 ++ parStateCode t.par.state ++ 0#3 ++ b ++ 0b1000#4 := by
  rw [parseResult, symbolCode_symbolOfBit]
  exact discardedWord_layout ..

/-! ## The obligations on the symbols of `BQ` -/

/-- Settles O33: in `COMPLETE` a delivery, whatever it delivers, only counts. -/
theorem completeDiscards : Obligations.CompleteDiscards := by
  intro s hinv hen hst
  refine ⟨fun b => ?bit, fun y rest hy => ?symbol⟩
  case bit =>
    have he := exec_feedBit_of_idle hen b
    rw [deliver_of_complete hst] at he
    refine ⟨_, he, countedOnce_bump s.cnt.discard, ?_, rfl⟩
    simp only [answered, parseResult_discarded, State.respond_rsp, State.countDiscard_par, hst]
    rfl
  case symbol =>
    obtain ⟨bq, hrest, he⟩ := exec_parseStep_of_symbol hinv hen hy
    rw [deliver_of_complete hst] at he
    refine ⟨_, he, hrest, countedOnce_bump s.cnt.discard, ?_, rfl⟩
    simp only [parseResult, State.respond_rsp, State.countDiscard_par, hst]
    cases y with
    | zero | one | resync => rfl

/-- Settles O34. -/
theorem resyncResetsParser : Obligations.ResyncResetsParser := by
  intro s rest hinv hen hne hy
  obtain ⟨bq, hrest, he⟩ := exec_parseStep_of_symbol hinv hen hy
  have hd : deliver .resync s = (s.parserReset, {}) := by simp only [deliver, hne, if_false]
  rw [hd] at he
  refine ⟨_, he, hrest, rfl, ?_, rfl⟩
  simp only [parseResult, State.respond_rsp, State.parserReset_par, Parser.initial]
  rfl

/-- Settles O35: both deliver the bit, and the delivery neither reads nor changes `BQ`. -/
theorem parseStepIsFeedBit : Obligations.ParseStepIsFeedBit := by
  rintro s b y rest hinv hen rfl hy
  obtain ⟨bq, hrest, he⟩ := exec_parseStep_of_symbol hinv hen hy
  refine ⟨_, _, he, exec_feedBit_of_idle hen b, ?_, deliver_bq _ s, rfl⟩
  exact (deliver_withBq_symbols _ s bq).trans hrest

end Sys2Proof.Machine
end

section
/-! SUPPORT. A message sent once under V3 (42_parser.md R256). -/

namespace Sys2Proof.Machine

theorem sentBits_v3 (bits : List (BitVec 1)) : sentBits .v3 bits = bits.map .feedBit :=
  List.map_eq_flatMap.symm

/-- A whole message under V3 ends on its last bit. -/
theorem execAll_message_v3 {s t u : State} {ns : List Nibble} {m : Nat}
    (hrun : execAll (sentBits .v3 (messageBits (ns.take m) ++ nibbleHead (ns.getD m 0))) s = .next u)
    (hm : m + 1 = ns.length) (hlast : exec (.feedBit ((ns.getD m 0).extractLsb' 3 1)) u = .next t) :
    execAll ((messageBits ns).map .feedBit) s = .next t := by
  rw [← sentBits_v3, messageBits_eq_lastBit hm, sentBits_append, execAll_append_of hrun]
  exact execAll_cons_of hlast []

/-- Settles O38: after all bits but the last the parser is one bit short of the message, and the last bit judges it by
the message's own checksum. -/
theorem wholeMessageV3 : Obligations.WholeMessageV3 := by
  intro s ns k good hinv hen hproto hpar hkey hlen hfits hgood
  have hd : Deliverable s ns k := hinv.deliverable hen (by rw [hproto]; exact hkey) hlen hfits
  rw [← hproto] at hgood ⊢
  obtain ⟨m, hm⟩ : ∃ m, m + 1 = ns.length := ⟨ns.length - 1, by have := hd.body; omega⟩
  obtain ⟨v, msg, r, hrun, hn, hc⟩ := execAll_toLastBit hd hproto hpar hm
  have hcells : cellsHold s ns ns.length (Cells.write msg m (ns.getD m 0)) := hm ▸ cellsHold_write hc
  obtain ⟨hheld, hdropped⟩ := exec_finalBit hd hc hm hn
    (acceptedParity_firstCopy (p := .v3) hproto (receivingPar_bitpar s k m v))
  rw [← messageLatch_cksOk_iff ns k] at hgood
  by_cases hg : good
  · have hok := hgood.1 hg
    obtain ⟨hstored, hkept, hdone, hslot, hlength, hcomputed, hreceived⟩ :=
      message_shown (t := messageHeld s ns k 0 _) hd hcells rfl rfl rfl
    exact ⟨_, execAll_message_v3 hrun hm (hheld hok), hstored, hkept, hdone, hslot, hlength, hcomputed, hreceived,
      fun _ => ⟨hok, rfl, countedOnce_bump s.cnt.cksOk, rfl⟩, fun hbad => absurd hg hbad, rfl⟩
  · have hbad := mt hgood.2 hg
    obtain ⟨hstored, hkept, hdone, hslot, hlength, hcomputed, hreceived⟩ :=
      message_shown (t := messageDropped s ns k 0 _) hd hcells rfl rfl rfl
    exact ⟨_, execAll_message_v3 hrun hm (hdropped hbad), hstored, hkept, hdone, hslot, hlength, hcomputed, hreceived,
      fun hgood => absurd hgood hg,
      fun _ => ⟨rfl, Bool.eq_false_of_not_eq_true hbad, countedOnce_bump s.cnt.cksFail, rfl⟩, rfl⟩

end Sys2Proof.Machine
end

section
/-! SUPPORT. What a step can do to the parser, `MSG` and `RES` (42_parser.md R221, R251, 44_control.md R322, R326):
nothing, one delivery, or a parser reset that HOST orders; and which delivery enters `BODY` (R241). -/

namespace Sys2Proof.Machine

/-- `PAR`, `MSG` and `RES` as before. -/
abbrev messageKept (s t : State) : Prop := t.par = s.par ∧ t.msg = s.msg ∧ t.res = s.res

/-- `t` is `s` after one delivery and, beside it, changes of `BQ`, the turns and the response only. -/
def delivered (s t : State) : Prop :=
  ∃ y bq turns rsp, t = { (deliver y { s with bq := bq, turns := turns }).1 with rsp := rsp }

/-- The operation resets the parser: `RESET` with the parser bit, or a change of `PROTO` (R322, R326). -/
def ordersParserReset (s : State) (i : Instr) : Prop :=
  (∃ m, i = .reset m ∧ m.getLsbD 1 = true) ∨ ∃ c, i = .wrCtrl c ∧ protoOf c ≠ s.proto

section
variable {s t u : State} {i : Instr} {y : Symbol} {b : BitVec 1} {r : ParseRecord}

/-! ## One operation -/

theorem delivered_of_runParseStep {w : Word} (hrun : runParseStep s = some (u, w)) : delivered s u := by
  rcases runParseStep_cases s with ⟨-, he⟩ | ⟨-, y, bq, -, he⟩
  · rw [he] at hrun; cases hrun
  · rw [he] at hrun
    obtain ⟨rfl, -⟩ := Prod.mk.inj (Option.some.inj hrun)
    exact ⟨y, bq, s.turns, _, rfl⟩

theorem delivered_respond (h : delivered s t) (st : Status) (w : Word) : delivered s (t.respond st w) := by
  obtain ⟨y, bq, turns, rsp, rfl⟩ := h
  exact ⟨y, bq, turns, _, rfl⟩

theorem messageKept_of_runDecStep {w : Word} (hrun : runDecStep s = some (u, w)) : messageKept s u := by
  rcases runDecStep_cases s with ⟨-, he⟩ | ⟨-, d, q, -, he⟩
  · rw [he] at hrun; cases hrun
  · rw [he] at hrun
    obtain ⟨rfl, -⟩ := Prod.mk.inj (Option.some.inj hrun)
    rw [decodeStep_frame]
    exact ⟨rfl, rfl, rfl⟩

theorem messageKept_of_decStep (he : exec .decStep s = .next t) : messageKept s t := by
  rcases execDecStep_cases s with ⟨-, hs⟩ | ⟨-, -, hs⟩ | ⟨-, -, u, w, hrun, hs⟩ <;>
    rw [hs] at he <;> obtain rfl := Host.Outcome.next.inj he
  · exact ⟨rfl, rfl, rfl⟩
  · exact ⟨rfl, rfl, rfl⟩
  · have hkept : messageKept s u := messageKept_of_runDecStep hrun
    exact hkept

theorem messageKept_of_popSymbol (he : exec .popSymbol s = .next t) : messageKept s t := by
  rcases execPopSymbol_cases s with ⟨-, hs⟩ | ⟨-, -, hs⟩ | ⟨-, -, y, q, -, hs⟩ <;>
    rw [hs] at he <;> obtain rfl := Host.Outcome.next.inj he <;> exact ⟨rfl, rfl, rfl⟩

theorem messageKept_of_pushPulse {d : Pulse} (he : exec (.pushPulse d) s = .next t) : messageKept s t := by
  rcases execPushPulse_cases d s with ⟨-, hs⟩ | ⟨-, -, hs⟩ | ⟨-, q, -, hs⟩ <;>
    rw [hs] at he <;> obtain rfl := Host.Outcome.next.inj he <;> exact ⟨rfl, rfl, rfl⟩

theorem messageKept_of_regAdd {f : BitVec 5} {l c : Octet} (he : exec (.regAdd f l c) s = .next t) :
    messageKept s t := by
  rcases execRegAdd_cases f l c s with ⟨-, hs⟩ | ⟨-, -, hs⟩ | ⟨-, -, -, hs⟩ | ⟨-, -, -, hs⟩ <;>
    rw [hs] at he <;> obtain rfl := Host.Outcome.next.inj he <;> exact ⟨rfl, rfl, rfl⟩

theorem messageKept_of_setField {k : BitVec 4} {a e : Octet} (he : exec (.setField k a e) s = .next t) :
    messageKept s t := by
  rcases execSetField_cases k a e s with ⟨-, hs⟩ | ⟨-, hs⟩ <;>
    rw [hs] at he <;> obtain rfl := Host.Outcome.next.inj he <;> exact ⟨rfl, rfl, rfl⟩

theorem messageKept_of_read
    (hi : (∃ n, i = .rdCsr n) ∨ (∃ n, i = .rdMsg n) ∨ (∃ k w, i = .rdSlot k w) ∨ (∃ c, i = .lookup c))
    (he : exec i s = .next t) : messageKept s t := by
  obtain ⟨st, w, hs⟩ := exec_read_respond hi s
  rw [hs] at he
  obtain rfl := Host.Outcome.next.inj he
  exact ⟨rfl, rfl, rfl⟩

theorem messageKept_or_delivered_of_parseStep (he : exec .parseStep s = .next t) :
    messageKept s t ∨ delivered s t := by
  rcases execParseStep_cases s with ⟨-, hs⟩ | ⟨-, -, hs⟩ | ⟨-, -, u, w, hrun, hs⟩ <;>
    rw [hs] at he <;> obtain rfl := Host.Outcome.next.inj he
  · exact .inl ⟨rfl, rfl, rfl⟩
  · exact .inl ⟨rfl, rfl, rfl⟩
  · exact .inr (delivered_respond (delivered_of_runParseStep hrun) ..)

theorem messageKept_or_delivered_of_feedBit (he : exec (.feedBit b) s = .next t) :
    messageKept s t ∨ delivered s t := by
  rcases execFeedBit_cases b s with ⟨-, hs⟩ | ⟨-, hs⟩ <;>
    rw [hs] at he <;> obtain rfl := Host.Outcome.next.inj he
  · exact .inl ⟨rfl, rfl, rfl⟩
  · exact .inr ⟨symbolOfBit b, s.bq, s.turns, _, rfl⟩

/-- `RESET` without the parser bit resets the decoder at most (R322). -/
theorem messageKept_or_reset_of_reset {m : BitVec 2} (he : exec (.reset m) s = .next t) :
    messageKept s t ∨ m.getLsbD 1 = true ∧ t.par = Parser.initial := by
  obtain rfl := Host.Outcome.next.inj he
  cases hm : m.getLsbD 1 with
  | true => exact .inr ⟨rfl, rfl⟩
  | false =>
    left
    cases m.getLsbD 0 with
    | true => exact ⟨rfl, rfl, rfl⟩
    | false => exact ⟨rfl, rfl, rfl⟩

theorem messageKept_or_reset_of_wrCtrl {c : BitVec 4} (he : exec (.wrCtrl c) s = .next t) :
    messageKept s t ∨ protoOf c ≠ s.proto ∧ t.par = Parser.initial := by
  obtain rfl := Host.Outcome.next.inj he
  by_cases hc : protoOf c = s.proto
  · rw [if_pos hc]; exact .inl ⟨rfl, rfl, rfl⟩
  · rw [if_neg hc]; exact .inr ⟨hc, rfl⟩

/-- What an operation can do to the parser and the held message. -/
theorem exec_parser_cases (he : exec i s = .next t) :
    messageKept s t ∨ delivered s t ∨ ordersParserReset s i ∧ t.par = Parser.initial := by
  cases i with
  | parseStep => exact (messageKept_or_delivered_of_parseStep he).imp_right .inl
  | feedBit b => exact (messageKept_or_delivered_of_feedBit he).imp_right .inl
  | reset m =>
    exact (messageKept_or_reset_of_reset he).imp_right fun ⟨hm, hpar⟩ => .inr ⟨.inl ⟨m, rfl, hm⟩, hpar⟩
  | wrCtrl c =>
    exact (messageKept_or_reset_of_wrCtrl he).imp_right fun ⟨hc, hpar⟩ => .inr ⟨.inr ⟨c, rfl, hc⟩, hpar⟩
  | pushPulse d => exact .inl (messageKept_of_pushPulse he)
  | decStep => exact .inl (messageKept_of_decStep he)
  | popSymbol => exact .inl (messageKept_of_popSymbol he)
  | setField k a e => exact .inl (messageKept_of_setField he)
  | regAdd f l c => exact .inl (messageKept_of_regAdd he)
  | rdCsr n => exact .inl (messageKept_of_read (.inl ⟨n, rfl⟩) he)
  | rdMsg k => exact .inl (messageKept_of_read (.inr (.inl ⟨k, rfl⟩)) he)
  | rdSlot k w => exact .inl (messageKept_of_read (.inr (.inr (.inl ⟨k, w, rfl⟩))) he)
  | lookup c => exact .inl (messageKept_of_read (.inr (.inr (.inr ⟨c, rfl⟩))) he)
  | nop | loadIdLo h | loadIdHi h | clrCnt =>
    obtain rfl := Host.Outcome.next.inj he
    exact .inl ⟨rfl, rfl, rfl⟩

/-! ## One step -/

theorem messageKept_or_delivered_of_engineStep (s : State) :
    messageKept s (engineStep s) ∨ delivered s (engineStep s) := by
  rcases engineStep_cases s with ⟨-, -, w, hrun⟩ | ⟨-, -, -, w, hrun⟩ | ⟨-, -, he⟩
  · exact .inr (delivered_of_runParseStep hrun)
  · exact .inl (messageKept_of_runDecStep hrun)
  · rw [he]; exact .inl ⟨rfl, rfl, rfl⟩

/-- What a step of any agent can do to the parser and the held message: only HOST's command resets the parser. -/
theorem step_parser_cases (hstep : step s = .next t) :
    messageKept s t ∨ delivered s t ∨
      ∃ i rest, s.turns = .host (encode i) :: rest ∧ ordersParserReset s i ∧ t.par = Parser.initial := by
  obtain ⟨-, ⟨d, rest, -, he⟩ | ⟨w, rest, e, -, -, rfl⟩ | ⟨w, rest, i, ht, hw, he⟩ | ⟨rest, -, rfl⟩⟩ := step_cases hstep
  · exact .inl (messageKept_of_pushPulse (s := { s with turns := rest }) he)
  · exact .inl ⟨rfl, rfl, rfl⟩
  · obtain ⟨-, rfl⟩ := decodeCommand_eq_ok_iff.1 hw
    exact (exec_parser_cases he).imp_right (.imp_right fun ⟨hi, hpar⟩ => ⟨i, rest, ht, hi, hpar⟩)
  · exact (messageKept_or_delivered_of_engineStep { s with turns := rest }).imp_right .inl

/-! ## Entering `BODY` (R239, R241) -/

theorem firstMatch_of_regLookup {id : Word} {ch : Octet} {k : Nat} (h : regLookup s id ch = some k) :
    firstMatch s id ch k := by
  rcases regLookup_cases s id ch with ⟨j, hj, hs, hm, hbefore⟩ | ⟨hn, -⟩
  · obtain rfl : j = k := Option.some.inj (hs.symm.trans h)
    obtain ⟨hid, hch⟩ := slotMatches_iff.1 hm
    exact ⟨hj, hid, hch, fun i hi hmatch =>
      Bool.noConfusion ((hbefore i hi).symm.trans (slotMatches_iff.2 hmatch))⟩
  · exact absurd (hn.symm.trans h) (by simp)

/-- An identification that ends in `BODY` recorded the first matching slot; slots are numbered below 16 (R50). -/
theorem firstMatch_identify (hcount : s.regCount.toNat ≤ 16) (hbody : (identify s).par.state = .body) :
    firstMatch (identify s) (deviceId (identify s)) (channel (identify s)) (identify s).par.slot.toNat := by
  rw [deviceId_identify, channel_identify]
  rcases identify_cases s with ⟨-, he⟩ | ⟨k, hk, he⟩
  · rw [he] at hbody; cases hbody
  · have hfirst := firstMatch_of_regLookup hk
    have hslot : (BitVec.ofNat 4 k).toNat = k :=
      (BitVec.toNat_ofNat ..).trans (Nat.mod_eq_of_lt (hfirst.1.trans_le hcount))
    rw [he]
    simp only [matched, hslot]
    exact hfirst

/-- The state after is that of an identification made with the registry of `s`. -/
def identified (s t : State) : Prop := ∃ u, u.regCount = s.regCount ∧ t = identify u

theorem complete_state_ne_body (s : State) (r : ParseRecord) : (complete s r).1.par.state ≠ .body := by
  rcases complete_cases s r with ⟨-, he⟩ | ⟨-, he⟩ <;> rw [he] <;> exact ParState.noConfusion

theorem nibbleDone_enters_body (hne : s.par.state ≠ .body) (hbody : (nibbleDone s r).1.par.state = .body) :
    s.par.state = .ident ∧ identified s (nibbleDone s r).1 := by
  rcases nibbleDone_cases s r with ⟨-, he⟩ | ⟨-, ⟨hst, -, he⟩ | ⟨hst, -⟩ | ⟨-, -, he⟩⟩
  · rw [he] at hbody; cases hbody
  · rw [he]; exact ⟨hst, storeNibble s, rfl, rfl⟩
  · exact absurd hst hne
  · rw [he] at hbody; exact absurd hbody hne

theorem accept_enters_body (hne : s.par.state ≠ .body) (hbody : (accept b s r).1.par.state = .body) :
    s.par.state = .ident ∧ identified s (accept b s r).1 := by
  rcases accept_cases b s r with ⟨-, -, he⟩ | ⟨-, -, he⟩ | ⟨-, -, he⟩ | ⟨-, -, he⟩ | hst
  · rw [he] at hbody; cases hbody
  · rw [he] at hbody; exact absurd hbody hne
  · rw [he] at hbody ⊢
    exact nibbleDone_enters_body (s := { s with par := ⟨_, shiftBit s.par.nib b, 0, _, _, _, _, _⟩ }) hne hbody
  · rw [he] at hbody; exact absurd hbody hne
  · simp [accept, hst] at hbody

theorem deliver_enters_body (hne : s.par.state ≠ .body) (hbody : (deliver y s).1.par.state = .body) :
    s.par.state = .ident ∧ identified s (deliver y s).1 := by
  rcases deliver_cases y s with ⟨-, he⟩ | ⟨-, -, he⟩ | ⟨-, -, he⟩ <;> rw [he] at hbody ⊢
  · exact absurd hbody hne
  · cases hbody
  rcases deliverBit_cases (bitOf y) s with ⟨-, hb⟩ | ⟨-, -, hb⟩ | ⟨-, -, hb⟩ <;> rw [hb] at hbody ⊢
  · exact accept_enters_body hne hbody
  · exact accept_enters_body (s := flipParity s) hne hbody
  · exact absurd hbody hne

end

/-! ## The obligations on steps -/

/-- Settles O37: only a delivery leads to `BODY`, and only by an identification that found a slot. -/
theorem bodyNeedsRegisteredSensor : Obligations.BodyNeedsRegisteredSensor := by
  intro s t hinv hstep hne hbody
  rcases step_parser_cases hstep with ⟨hpar, -⟩ | ⟨y, bq, turns, rsp, rfl⟩ | ⟨i, rest, -, -, hpar⟩
  · exact absurd (hpar ▸ hbody) hne
  · obtain ⟨hst, u, hcount, hu⟩ := deliver_enters_body (s := { s with bq := bq, turns := turns }) hne hbody
    obtain ⟨hregs, -⟩ := hinv.registry
    refine ⟨hst, ?_⟩
    rw [hu] at hbody ⊢
    exact firstMatch_identify (by rw [hcount]; exact hregs.trans hinv.core.regCap_le) hbody
  · rw [hpar] at hbody; cases hbody

/-- Settles O40: in `COMPLETE` a delivery only counts, and the two hypotheses exclude the parser resets. -/
theorem completedMessageHeld : Obligations.CompletedMessageHeld := by
  intro s t hst hstep hreset hproto
  rcases step_parser_cases hstep with hkept | ⟨y, bq, turns, rsp, rfl⟩ | ⟨i, rest, ht, hi, -⟩
  · exact hkept
  · rw [deliver_of_complete (s := { s with bq := bq, turns := turns }) hst]
    exact ⟨rfl, rfl, rfl⟩
  · rcases hi with ⟨m, rfl, hm⟩ | ⟨c, rfl, hc⟩
    · exact absurd (hm.symm.trans (hreset m rest ht)) Bool.noConfusion
    · exact absurd (hproto c rest ht) hc

end Sys2Proof.Machine
end

section
/-! SUPPORT. What an operation and a step can do to the registry (43_registry.md R284, R286): nothing, or one `REG_ADD`
that appends a slot after the valid ones. -/

namespace Sys2Proof.Machine

/-- The registry reads as before (R49, R50). -/
abbrev registryKept (s t : State) : Prop := t.reg = s.reg ∧ t.regCount = s.regCount ∧ t.power = s.power

/-- `t` is `s` after an accepted `REG_ADD` and, beside it, changes of the turns and the response only. -/
def sensorAdded (s t : State) : Prop :=
  s.regCount.toNat ≠ s.cfg.regCap ∧
    ∃ f l c turns rsp, t = { withSensor s f l c with turns := turns, rsp := rsp }

section
variable {s t u : State} {i : Instr}

/-! ## One operation -/

theorem registryKept_of_next {o : Host.Outcome State Fault Refusal} (hs : o = .next u) (he : o = .next t)
    (hu : registryKept s u) : registryKept s t :=
  Host.Outcome.next.inj (hs.symm.trans he) ▸ hu

theorem registryKept_of_delivered (h : delivered s t) : registryKept s t := by
  obtain ⟨y, bq, turns, rsp, rfl⟩ := h
  rw [deliver_frame]
  exact ⟨rfl, rfl, rfl⟩

theorem registryKept_of_runDecStep {w : Word} (hrun : runDecStep s = some (u, w)) : registryKept s u := by
  rcases runDecStep_cases s with ⟨-, he⟩ | ⟨-, d, q, -, he⟩
  · rw [he] at hrun; cases hrun
  · rw [he] at hrun
    obtain ⟨rfl, -⟩ := Prod.mk.inj (Option.some.inj hrun)
    rw [decodeStep_frame]
    exact ⟨rfl, rfl, rfl⟩

theorem registryKept_of_decStep (he : exec .decStep s = .next t) : registryKept s t := by
  rcases execDecStep_cases s with ⟨-, hs⟩ | ⟨-, -, hs⟩ | ⟨-, -, u, w, hrun, hs⟩
  · exact registryKept_of_next hs he ⟨rfl, rfl, rfl⟩
  · exact registryKept_of_next hs he ⟨rfl, rfl, rfl⟩
  · have hkept : registryKept s u := registryKept_of_runDecStep hrun
    exact registryKept_of_next hs he hkept

theorem registryKept_of_parseStep (he : exec .parseStep s = .next t) : registryKept s t := by
  rcases execParseStep_cases s with ⟨-, hs⟩ | ⟨-, -, hs⟩ | ⟨-, -, u, w, hrun, hs⟩
  · exact registryKept_of_next hs he ⟨rfl, rfl, rfl⟩
  · exact registryKept_of_next hs he ⟨rfl, rfl, rfl⟩
  · have hdelivered := delivered_respond (delivered_of_runParseStep hrun) .ok w
    exact registryKept_of_next hs he (registryKept_of_delivered hdelivered)

theorem registryKept_of_feedBit {b : BitVec 1} (he : exec (.feedBit b) s = .next t) : registryKept s t := by
  rcases execFeedBit_cases b s with ⟨-, hs⟩ | ⟨-, hs⟩
  · exact registryKept_of_next hs he ⟨rfl, rfl, rfl⟩
  · exact registryKept_of_next hs he (registryKept_of_delivered ⟨symbolOfBit b, s.bq, s.turns, _, rfl⟩)

theorem registryKept_of_popSymbol (he : exec .popSymbol s = .next t) : registryKept s t := by
  rcases execPopSymbol_cases s with ⟨-, hs⟩ | ⟨-, -, hs⟩ | ⟨-, -, y, q, -, hs⟩ <;>
    exact registryKept_of_next hs he ⟨rfl, rfl, rfl⟩

theorem registryKept_of_pushPulse {d : Pulse} (he : exec (.pushPulse d) s = .next t) : registryKept s t := by
  rcases execPushPulse_cases d s with ⟨-, hs⟩ | ⟨-, -, hs⟩ | ⟨-, q, -, hs⟩ <;>
    exact registryKept_of_next hs he ⟨rfl, rfl, rfl⟩

theorem registryKept_of_setField {k : BitVec 4} {a e : Octet} (he : exec (.setField k a e) s = .next t) :
    registryKept s t := by
  rcases execSetField_cases k a e s with ⟨-, hs⟩ | ⟨-, hs⟩ <;>
    exact registryKept_of_next hs he ⟨rfl, rfl, rfl⟩

/-- No reset but power-on touches the registry (R323). -/
theorem registryKept_of_reset {m : BitVec 2} (he : exec (.reset m) s = .next t) : registryKept s t := by
  obtain rfl := Host.Outcome.next.inj he
  cases m.getLsbD 0 <;> cases m.getLsbD 1 <;> exact ⟨rfl, rfl, rfl⟩

theorem registryKept_of_wrCtrl {c : BitVec 4} (he : exec (.wrCtrl c) s = .next t) : registryKept s t := by
  obtain rfl := Host.Outcome.next.inj he
  split
  · exact ⟨rfl, rfl, rfl⟩
  · exact ⟨rfl, rfl, rfl⟩

theorem registryKept_of_read
    (hi : (∃ n, i = .rdCsr n) ∨ (∃ n, i = .rdMsg n) ∨ (∃ k w, i = .rdSlot k w) ∨ (∃ c, i = .lookup c))
    (he : exec i s = .next t) : registryKept s t := by
  obtain ⟨st, w, hs⟩ := exec_read_respond hi s
  exact registryKept_of_next hs he ⟨rfl, rfl, rfl⟩

theorem registryKept_or_sensorAdded_of_regAdd {f : BitVec 5} {l c : Octet} (he : exec (.regAdd f l c) s = .next t) :
    registryKept s t ∨ sensorAdded s t := by
  rcases execRegAdd_cases f l c s with ⟨-, hs⟩ | ⟨-, -, hs⟩ | ⟨-, -, -, hs⟩ | ⟨-, -, hroom, hs⟩
  · exact .inl (registryKept_of_next hs he ⟨rfl, rfl, rfl⟩)
  · exact .inl (registryKept_of_next hs he ⟨rfl, rfl, rfl⟩)
  · exact .inl (registryKept_of_next hs he ⟨rfl, rfl, rfl⟩)
  · exact .inr ⟨hroom, f, l, c, s.turns, _, Host.Outcome.next.inj (he.symm.trans hs)⟩

/-- What an operation can do to the registry: only `REG_ADD` touches it. -/
theorem exec_registry_cases (he : exec i s = .next t) : registryKept s t ∨ sensorAdded s t := by
  cases i with
  | regAdd f l c => exact registryKept_or_sensorAdded_of_regAdd he
  | pushPulse d => exact .inl (registryKept_of_pushPulse he)
  | decStep => exact .inl (registryKept_of_decStep he)
  | parseStep => exact .inl (registryKept_of_parseStep he)
  | popSymbol => exact .inl (registryKept_of_popSymbol he)
  | feedBit b => exact .inl (registryKept_of_feedBit he)
  | reset m => exact .inl (registryKept_of_reset he)
  | wrCtrl c => exact .inl (registryKept_of_wrCtrl he)
  | setField k a e => exact .inl (registryKept_of_setField he)
  | rdCsr n => exact .inl (registryKept_of_read (.inl ⟨n, rfl⟩) he)
  | rdMsg k => exact .inl (registryKept_of_read (.inr (.inl ⟨k, rfl⟩)) he)
  | rdSlot k w => exact .inl (registryKept_of_read (.inr (.inr (.inl ⟨k, w, rfl⟩))) he)
  | lookup c => exact .inl (registryKept_of_read (.inr (.inr (.inr ⟨c, rfl⟩))) he)
  | nop | loadIdLo h | loadIdHi h | clrCnt =>
    obtain rfl := Host.Outcome.next.inj he
    exact .inl ⟨rfl, rfl, rfl⟩

/-! ## One step -/

theorem registryKept_engineStep (s : State) : registryKept s (engineStep s) := by
  rcases engineStep_cases s with ⟨-, -, w, hrun⟩ | ⟨-, -, -, w, hrun⟩ | ⟨-, -, he⟩
  · exact registryKept_of_delivered (delivered_of_runParseStep hrun)
  · exact registryKept_of_runDecStep hrun
  · rw [he]; exact ⟨rfl, rfl, rfl⟩

theorem sensorAdded_of_withTurns {turns : List Turn} (h : sensorAdded { s with turns := turns } t) :
    sensorAdded s t := by
  obtain ⟨hroom, f, l, c, turns', rsp, rfl⟩ := h
  exact ⟨hroom, f, l, c, turns', rsp, rfl⟩

/-- What a step of any agent can do to the registry. -/
theorem step_registry_cases (hstep : step s = .next t) : registryKept s t ∨ sensorAdded s t := by
  obtain ⟨-, ⟨d, rest, -, he⟩ | ⟨w, rest, e, -, -, rfl⟩ | ⟨w, rest, i, -, -, he⟩ | ⟨rest, -, rfl⟩⟩ := step_cases hstep
  · exact .inl (registryKept_of_pushPulse (s := { s with turns := rest }) he)
  · exact .inl ⟨rfl, rfl, rfl⟩
  · exact (exec_registry_cases he).imp_right sensorAdded_of_withTurns
  · exact .inl (registryKept_engineStep { s with turns := rest })

/-! ## Slots -/

theorem regAt_of_registryKept (h : registryKept s t) (k : Nat) : t.regAt k = s.regAt k := by
  obtain ⟨hreg, -, hpower⟩ := h
  rw [State.regAt, State.regAt, hreg, hpower]

theorem regCount_lt_of_room (h : Inv s) (hroom : s.regCount.toNat ≠ s.cfg.regCap) : s.regCount.toNat < 16 := by
  obtain ⟨hle, -⟩ := h.registry
  exact (lt_of_le_of_ne hle hroom).trans_le h.core.regCap_le

end

/-- Settles O47: a step keeps the registry, or appends at `REG_COUNT`, above every valid slot. -/
theorem registryAppendOnly : Obligations.RegistryAppendOnly := by
  intro s t hinv hstep
  rcases step_registry_cases hstep with ⟨hreg, hcount, hpower⟩ | ⟨hroom, f, l, c, turns, rsp, rfl⟩
  · exact ⟨hcount.symm ▸ le_rfl, fun k _ => regAt_of_registryKept ⟨hreg, hcount, hpower⟩ k⟩
  · have hcount := withSensor_regCount (regCount_lt_of_room hinv hroom) f l c
    exact ⟨Nat.le_of_succ_le hcount.ge, fun k hk => withSensor_regAt_other hk.ne f l c⟩

end Sys2Proof.Machine
end

section
/-! SUPPORT. The registry operations one by one (43_registry.md R280 to R290): their words, and what each answers and
changes. -/

namespace Sys2Proof.Machine

/-! ## The words of the operations (R112) -/

/-- A half word set below another is the `or` of the two in their places. -/
theorem append_eq_or_setWidth (x y : BitVec 16) : (x ++ y : Word) = (x ++ 0#16) ||| y.setWidth 32 := by
  calc (x ++ y : Word)
    _ = (x ||| 0#16) ++ (0#16 ||| y) := by rw [BitVec.or_zero, BitVec.zero_or]
    _ = (x ++ 0#16) ||| (0#16 ++ y) := BitVec.or_append.symm
    _ = (x ++ 0#16) ||| y.setWidth 32 := by rw [BitVec.setWidth_eq_append (by decide)]; rfl

theorem encode_loadIdLo_eq_or (h : BitVec 16) : encode (.loadIdLo h) = 0x0A000000 ||| h.setWidth 32 :=
  append_eq_or_setWidth _ h

theorem encode_loadIdHi_eq_or (h : BitVec 16) : encode (.loadIdHi h) = 0x0B000000 ||| h.setWidth 32 :=
  append_eq_or_setWidth _ h

theorem encode_setField_toNat (k : BitVec 4) (a e : Octet) :
    (encode (.setField k a e)).toNat = 0x0C000000 + k.toNat * 2 ^ 16 + a.toNat * 2 ^ 8 + e.toNat := by
  rw [encode, append_toNat, append_toNat, append_toNat, append_toNat]
  simp only [BitVec.toNat_ofNat]
  omega

theorem encode_rdSlot_toNat (k : BitVec 4) (w : BitVec 5) :
    (encode (.rdSlot k w)).toNat = 0x0E000000 + k.toNat * 2 ^ 16 + w.toNat := by
  rw [encode, append_toNat, append_toNat, append_toNat, append_toNat]
  simp only [BitVec.toNat_ofNat]
  omega

theorem encode_lookup_toNat (c : Octet) : (encode (.lookup c)).toNat = 0x10000000 + c.toNat := by
  rw [encode, append_toNat]; rfl

section
variable {s : State}

/-! ## `LOAD_ID_LO` and `LOAD_ID_HI` (R280, R281) -/

theorem withLowHalf_halves (x : Word) (h : BitVec 16) :
    (withLowHalf x h).extractLsb' 0 16 = h ∧ (withLowHalf x h).extractLsb' 16 16 = x.extractLsb' 16 16 :=
  ⟨BitVec.extractLsb'_append_eq_right, BitVec.extractLsb'_append_eq_left⟩

theorem withHighHalf_halves (x : Word) (h : BitVec 16) :
    (withHighHalf x h).extractLsb' 16 16 = h ∧ (withHighHalf x h).extractLsb' 0 16 = x.extractLsb' 0 16 :=
  ⟨BitVec.extractLsb'_append_eq_left, BitVec.extractLsb'_append_eq_right⟩

/-- A parsed id is 16 bits, zero-extended (R238). -/
theorem deviceId_high_half (u : State) : (deviceId u).extractLsb' 16 16 = 0 := by
  rw [deviceId, BitVec.setWidth_eq_append (by decide)]
  exact BitVec.extractLsb'_append_eq_left

/-! ## `SET_FIELD` (R282) -/

theorem fstageAt_set_same {k : Nat} (hk : k < s.fstage.length) (p : FieldPair) :
    ({ s with fstage := s.fstage.set k p } : State).fstageAt k = p := by
  simp [State.fstageAt, hk]

theorem fstageAt_set_other {j k : Nat} (hj : j ≠ k) (p : FieldPair) :
    ({ s with fstage := s.fstage.set k p } : State).fstageAt j = s.fstageAt j := by
  simp [State.fstageAt, List.getElem?_set_ne hj.symm]

/-! ## `REG_ADD` (R284) -/

theorem stagedDescriptor_fields_length (f : BitVec 5) (l c : Octet) :
    (stagedDescriptor s f l c).fields.length = s.cfg.maxFields := by
  simp [stagedDescriptor]

/-! ## `RD_SLOT` (R288) -/

/-- What `RD_SLOT` can do (R288). -/
theorem execRdSlot_cases (k : BitVec 4) (w : BitVec 5) (s : State) :
    ((s.regCount.toNat ≤ k.toNat ∨ s.cfg.maxFields + 2 ≤ w.toNat) ∧
      exec (.rdSlot k w) s = .next (s.respond .badarg 0)) ∨
    ((k.toNat < s.regCount.toNat ∧ w.toNat < s.cfg.maxFields + 2) ∧
      exec (.rdSlot k w) s = .next (s.respond .ok (descriptorWord (s.regAt k.toNat) w))) := by
  cases hr : slotInRange s k w with
  | false => exact .inl ⟨(slotInRange_eq_false_iff s k w).1 hr, by simp [exec, execRdSlot, hr, raise]⟩
  | true => exact .inr ⟨of_decide_eq_true hr, by simp [exec, execRdSlot, hr, done]⟩

theorem descriptorWord_field (d : Descriptor) {w : BitVec 5} (hw : 2 ≤ w.toNat) :
    descriptorWord d w = 0#16 ++ (fieldAt d (w.toNat - 2)).start ++ (fieldAt d (w.toNat - 2)).stop := by
  obtain ⟨k, hk⟩ := Nat.exists_eq_add_of_le' hw
  simp only [descriptorWord, hk, Nat.add_sub_cancel]

/-! ## `LOOKUP` (R290) -/

theorem lookupWord_some : ∀ k < 16, lookupWord (some k) = BitVec.ofNat 32 (0x100 + k) := by decide

end

/-! ## The obligations on the registry operations -/

/-- Settles O41: each load sets one half beside the other, and a parsed id's high half is 0. -/
theorem loadIdHalves : Obligations.LoadIdHalves := by
  intro s h
  obtain ⟨hlow, hlowKept⟩ := withLowHalf_halves s.idStage h
  obtain ⟨hhigh, hhighKept⟩ := withHighHalf_halves s.idStage h
  refine ⟨encode_loadIdLo_eq_or h, encode_loadIdHi_eq_or h, ⟨_, rfl, hlow, hlowKept⟩,
    ⟨_, rfl, hhigh, hhighKept, fun hne u hid => hne ?_⟩⟩
  calc h = (withHighHalf s.idStage h).extractLsb' 16 16 := hhigh.symm
    _ = (deviceId u).extractLsb' 16 16 := by rw [hid]
    _ = 0 := deviceId_high_half u

/-- Settles O42: in range it sets one pair of `FSTAGE`, whose length stays. -/
theorem setFieldStages : Obligations.SetFieldStages := by
  intro s k a e hstage
  refine ⟨encode_setField_toNat k a e, ?_⟩
  rcases execSetField_cases k a e s with ⟨hout, he⟩ | ⟨hin, he⟩
  · exact ⟨fun _ => he, fun hin => absurd hin hout.not_gt⟩
  · exact ⟨fun hout => absurd hin hout.not_gt, fun _ => ⟨_, he, fstageAt_set_same (hstage ▸ hin) _,
      fun j hj => fstageAt_set_other hj _, List.length_set, rfl, rfl⟩⟩

/-- Settles O43: with room and operands in range `REG_ADD` appends the staged descriptor. -/
theorem regAddAppends : Obligations.RegAddAppends := by
  intro s f l c hen hf hl hroom hcap
  have hnew := withSensor_regAt_new s f l c
  refine ⟨_, exec_regAdd_of_room hen hf hl hroom.ne c, withSensor_regCount (hroom.trans_le hcap) f l c,
    ?id, ?channel, ?length, ?number, ?pairs, fun k hk => ?pair, fun j hj => ?other, rfl, rfl⟩
  case id => exact congrArg Descriptor.id hnew
  case channel => exact congrArg Descriptor.ch hnew
  case length => exact congrArg Descriptor.len hnew
  case number => exact congrArg Descriptor.nf hnew
  case pairs => exact (congrArg (fun d => d.fields.length) hnew).trans (stagedDescriptor_fields_length f l c)
  case pair => exact (congrArg (fieldAt · k) hnew).trans (fieldAt_stagedDescriptor hk f l c)
  case other => exact withSensor_regAt_other hj f l c

/-- Settles O45: the range check decides, and in range each word has its own equation. -/
theorem rdSlotWords : Obligations.RdSlotWords := by
  rintro s k w _ rfl
  refine ⟨encode_rdSlot_toNat k w, ?_⟩
  rcases execRdSlot_cases k w s with ⟨hout, he⟩ | ⟨⟨hk, hw⟩, he⟩
  · exact ⟨fun _ => he, fun hk hw => absurd hout (not_or.2 ⟨hk.not_ge, hw.not_ge⟩)⟩
  · refine ⟨fun hout => absurd hout (not_or.2 ⟨hk.not_ge, hw.not_ge⟩),
      fun _ _ => ⟨?id, ?header, fun hfield => ?pair⟩⟩
    case id => rintro rfl; exact he
    case header => rintro rfl; exact he
    case pair => rw [he, descriptorWord_field _ hfield]; rfl

/-- Settles O46: the lookup finds the first match, whose number is below 16. -/
theorem lookupFirstMatch : Obligations.LookupFirstMatch := by
  intro s c hinv
  have hexec : exec (.lookup c) s = .next (s.respond .ok (lookupWord (regLookup s s.idStage c))) := rfl
  refine ⟨encode_lookup_toNat c, fun hnone => ?none, fun k hfirst => ?found⟩
  case none => rw [hexec, regLookup_of_noMatch hnone]; rfl
  case found =>
    have hfound := regLookup_of_firstMatch hfirst
    rw [hexec, hfound, lookupWord_some k (hinv.core.slot_lt (regLookup_lt hfound))]; rfl

end Sys2Proof.Machine
end

section
/-! SUPPORT. The commands that control the block and read a `MSG` cell (44_control.md R320, R322, R326, R330, R332):
one equation for each outcome. -/

namespace Sys2Proof.Machine

/-! ## The words of the operations (R112) -/

theorem encode_reset_toNat (m : BitVec 2) : (encode (.reset m)).toNat = 0x06000000 + m.toNat := by
  rw [encode, append_toNat]; rfl

theorem encode_wrCtrl_toNat (c : BitVec 4) : (encode (.wrCtrl c)).toNat = 0x07000000 + c.toNat := by
  rw [encode, append_toNat]; rfl

theorem encode_rdMsg_toNat (i : Octet) : (encode (.rdMsg i)).toNat = 0x09000000 + i.toNat := by
  rw [encode, append_toNat]; rfl

section
variable {s : State} {c : BitVec 4} {i : Octet}

/-! ## `RESET` (R322) -/

/-- The state after `RESET m`: each half is reset or kept by its own bit of the mask. -/
def resetBy (m : BitVec 2) (s : State) : State :=
  { s with dec := if m.getLsbD 0 then Decoder.initial s.cfg.initBit else s.dec
           par := if m.getLsbD 1 then Parser.initial else s.par
           res := if m.getLsbD 1 then { s.res with done := false, cksOk := false } else s.res
           rsp := some ⟨.ok, 0⟩ }

theorem exec_reset (m : BitVec 2) (s : State) : exec (.reset m) s = .next (resetBy m s) := by
  simp only [exec, execReset, resetBy]
  cases m.getLsbD 0 <;> cases m.getLsbD 1 <;> rfl

/-- What a bit of the mask resets is already reset the second time. -/
theorem resetBy_resetBy (m : BitVec 2) (s : State) : resetBy m (resetBy m s) = resetBy m s := by
  simp only [resetBy]
  cases m.getLsbD 0 <;> cases m.getLsbD 1 <;> rfl

/-! ## `WR_CTRL` (R326) -/

/-- The variants agree exactly when bit 3 of `CTRL` does (R33). -/
theorem protoOf_eq_proto_iff : protoOf c = s.proto ↔ c.getLsbD 3 = s.ctrl.getLsbD 3 := by
  have hinj : ∀ a b : Bool, (if a then Proto.v21 else .v3) = (if b then .v21 else .v3) → a = b := by decide
  exact ⟨hinj _ _, protoOf_of_bit⟩

theorem exec_wrCtrl_of_sameProto (h : protoOf c = s.proto) :
    exec (.wrCtrl c) s = .next { s with ctrl := c, rsp := some ⟨.ok, 0⟩ } := by
  simp only [exec, execWrCtrl, if_pos h]; rfl

theorem exec_wrCtrl_of_newProto (h : protoOf c ≠ s.proto) :
    exec (.wrCtrl c) s = .next { s with ctrl := c, par := Parser.initial, rsp := some ⟨.ok, 0⟩ } := by
  simp only [exec, execWrCtrl, if_neg h]; rfl

/-! ## `RD_MSG` (R330) -/

theorem exec_rdMsg_of_inside (h : i.toNat < s.cfg.msgCap) :
    exec (.rdMsg i) s = .next (s.respond .ok ((s.msgAt i.toNat).setWidth 32)) :=
  if_pos (decide_eq_true h)

theorem exec_rdMsg_of_outside (h : s.cfg.msgCap ≤ i.toNat) : exec (.rdMsg i) s = .next (s.respond .badarg 0) := by
  simp only [exec, execRdMsg, (msgInRange_eq_false_iff s i).2 h]; rfl

/-- A nibble answered in a word (R330). -/
theorem nibbleWord_layout : ∀ n : Nibble,
    (n.setWidth 32).extractLsb' 0 4 = n ∧ (n.setWidth 32).extractLsb' 4 28 = 0 := by decide

/-- Indices rise in a canonical array, so a listed value is its cell's only one (R83). -/
theorem Cells.find_of_mem {α : Type} {m : Cells α} {j : Nat} {v : α}
    (hrise : m.Pairwise fun a b => a.1 < b.1) (hmem : (j, v) ∈ m) : Cells.find m j = some v := by
  induction m with
  | nil => cases hmem
  | cons p rest ih =>
    obtain ⟨hfirst, hrest⟩ := List.pairwise_cons.1 hrise
    rcases List.mem_cons.1 hmem with rfl | hlater
    · exact if_pos rfl
    · have hne : j ≠ p.1 := (hfirst _ hlater).ne'
      exact (if_neg hne).trans (ih hrest hlater)

theorem msgAt_of_mem {j : Nat} {v : Nibble} (hwf : Cells.wf s.cfg.msgCap s.msg) (hmem : (j, v) ∈ s.msg) :
    s.msgAt j = v := by
  obtain ⟨hrise, -⟩ := hwf
  rw [State.msgAt, Cells.read, Cells.find_of_mem hrise hmem, Option.getD_some]

end

/-! ## The obligations -/

/-- Settles O48: the row of opcode 0 has no operand bit, so it selects the word 0 only. -/
theorem nopOnlyAnswers : Obligations.NopOnlyAnswers := by
  refine ⟨fun s => rfl, rfl, fun w hop hne => ?_⟩
  have hrow : opcodeTable[opcodeOf w]? = some ⟨"NOP", 0x00000000, 0xFFFFFFFF, fun _ => .nop⟩ := by rw [hop]; rfl
  exact decodeCommand_reservedBit hrow fun hsel => hne ((BitVec.and_allOnes (x := w)).symm.trans hsel)

/-- Settles O49: the equation of `RESET` and that it is idempotent. -/
theorem resetSelects : Obligations.ResetSelects := by
  intro s m
  refine ⟨encode_reset_toNat m, resetBy m s, exec_reset m s, rfl, rfl, rfl, rfl, rfl, ?_⟩
  rw [exec_reset, resetBy_resetBy]

/-- Settles O50. -/
theorem wrCtrlWrites : Obligations.WrCtrlWrites := fun _ c =>
  ⟨encode_wrCtrl_toNat c, fun hbit => exec_wrCtrl_of_sameProto (protoOf_eq_proto_iff.2 hbit),
    fun hbit => exec_wrCtrl_of_newProto (mt protoOf_eq_proto_iff.1 hbit)⟩

/-- Settles O52: the word is the cell's nibble widened, whatever an unwritten cell holds. -/
theorem rdMsgReads : Obligations.RdMsgReads := by
  intro s i
  refine ⟨encode_rdMsg_toNat i, fun hin => ?inside, exec_rdMsg_of_outside⟩
  obtain ⟨hlow, hhigh⟩ := nibbleWord_layout (s.msgAt i.toNat)
  exact ⟨_, exec_rdMsg_of_inside hin, hlow, hhigh, fun v hmem hwf => hlow.trans (msgAt_of_mem hwf hmem)⟩

/-- Settles O53. -/
theorem clrCntClears : Obligations.ClrCntClears := ⟨rfl, fun _ => rfl⟩

end Sys2Proof.Machine
end

section
/-! SUPPORT. Ownership of the queues and the parser input (44_control.md R342): which commands are answered `BUSY`. -/

namespace Sys2Proof.Machine

/-- Each owned resource is checked by the commands that would consume it, before anything else. -/
theorem status_busy_iff (s : State) (i : Instr) : firstRefusal (commandChecks s i) = .busy ↔
    (i = .decStep ∧ s.decEn = true) ∨
    (s.parEn = true ∧ (i = .parseStep ∨ i = .popSymbol ∨ (∃ b, i = .feedBit b) ∨ ∃ f l c, i = .regAdd f l c)) := by
  cases i with
  | decStep | parseStep | popSymbol | feedBit b | regAdd f l c => simp [commandChecks]
  | _ => simp [commandChecks]

theorem runCommand_encode {i : Instr} (hi : i.wellFormed .host = true) (s : State) :
    runCommand (encode i) s = exec i s :=
  runTurn_host_of_decode (decodeCommand_encode hi) s

/-- Settles O55: the status is that of the first check that fails, and a refusal changes only the response (O57). -/
theorem busyExactlyWhenOwned : Obligations.BusyExactlyWhenOwned := by
  intro s i hi
  obtain ⟨u, data, hu⟩ := exec_answers s hi
  refine ⟨_, _, hu, rfl, status_busy_iff s i, fun (hbusy : firstRefusal (commandChecks s i) = .busy) => ?_⟩
  have hrun : runCommand (encode i) s = .next (u.respond .busy data) := by rw [runCommand_encode hi, hu, hbusy]
  obtain ⟨rfl, hkept⟩ := refusalChangesNothing s _ _ _ hrun rfl Status.noConfusion
  rw [hbusy]
  exact hkept

end Sys2Proof.Machine
end

section
/-! SUPPORT. What the record of lost symbols, `BQ_OVF` and `CNT_BQ_OVF`, can change by (41_decoder.md R186,
44_control.md R332, R341): a `DEC_STEP` that finds `BQ` full, and `CLR_CNT`. -/

namespace Sys2Proof.Machine

/-- `BQ_OVF` and `CNT_BQ_OVF` as before. -/
abbrev bitLossKept (s t : State) : Prop := t.bqOvf = s.bqOvf ∧ t.cnt.bqOvf = s.cnt.bqOvf

section
variable {s t u : State} {i : Instr}

/-! ## The parser loses no symbol -/

theorem identify_cnt_bqOvf (s : State) : (identify s).cnt.bqOvf = s.cnt.bqOvf := by
  rcases identify_cases s with ⟨-, he⟩ | ⟨k, -, he⟩
  · rw [he]; rfl
  · rw [he]; rfl

theorem complete_cnt_bqOvf (s : State) (r : ParseRecord) : (complete s r).1.cnt.bqOvf = s.cnt.bqOvf := by
  rcases complete_cases s r with ⟨-, he⟩ | ⟨-, he⟩
  · rw [he]
  · rw [he]; rfl

theorem nibbleDone_cnt_bqOvf (s : State) (r : ParseRecord) : (nibbleDone s r).1.cnt.bqOvf = s.cnt.bqOvf := by
  rcases nibbleDone_cases s r with ⟨-, he⟩ | ⟨-, ⟨-, -, he⟩ | ⟨-, -, he⟩ | ⟨-, -, he⟩⟩ <;> rw [he]
  · rfl
  · exact identify_cnt_bqOvf (storeNibble s)
  · exact complete_cnt_bqOvf (storeNibble s) r
  · rfl

theorem accept_cnt_bqOvf (b : BitVec 1) (s : State) (r : ParseRecord) :
    (accept b s r).1.cnt.bqOvf = s.cnt.bqOvf := by
  rcases accept_cases b s r with ⟨-, -, he⟩ | ⟨-, -, he⟩ | ⟨-, -, he⟩ | ⟨-, -, he⟩ | hst
  · rw [he]
  · rw [he]
  · rw [he]; exact nibbleDone_cnt_bqOvf ..
  · rw [he]
  · simp [accept, hst]

theorem deliver_cnt_bqOvf (y : Symbol) (s : State) : (deliver y s).1.cnt.bqOvf = s.cnt.bqOvf := by
  rcases deliver_cases y s with ⟨-, he⟩ | ⟨-, -, he⟩ | ⟨-, -, he⟩ <;> rw [he]
  · rfl
  · rfl
  rcases deliverBit_cases (bitOf y) s with ⟨-, hb⟩ | ⟨-, -, hb⟩ | ⟨-, -, hb⟩ <;> rw [hb]
  · exact accept_cnt_bqOvf ..
  · exact accept_cnt_bqOvf _ (flipParity s) _
  · rfl

theorem bitLossKept_of_delivered (h : delivered s t) : bitLossKept s t := by
  obtain ⟨y, bq, turns, rsp, rfl⟩ := h
  exact ⟨by rw [deliver_frame], deliver_cnt_bqOvf y _⟩

/-! ## The decoder loses none while `BQ` has room -/

theorem bitLossKept_emit (hroom : s.bq.cnt.toNat ≠ s.cfg.bqCap) (y : Symbol) : bitLossKept s (emit y s).1 := by
  rcases emit_cases y s with ⟨q, -, he⟩ | ⟨hfull, -⟩
  · rw [he]; exact ⟨rfl, rfl⟩
  · exact absurd hfull hroom

theorem bitLossKept_decodeStep (hroom : s.bq.cnt.toNat ≠ s.cfg.bqCap) (d : Pulse) :
    bitLossKept s (decodeStep d s).1 := by
  rcases decodeStep_cases d s with ⟨-, he⟩ | ⟨-, dec, -, ⟨-, he⟩ | ⟨-, he⟩⟩ <;> rw [he]
  · exact bitLossKept_emit (s := s.decReset.countResync) hroom .resync
  · exact bitLossKept_emit (s := { s with dec := dec }) hroom _
  · exact ⟨rfl, rfl⟩

theorem bitLossKept_of_runDecStep (hroom : s.bq.cnt.toNat ≠ s.cfg.bqCap) {w : Word}
    (hrun : runDecStep s = some (u, w)) : bitLossKept s u := by
  rcases runDecStep_cases s with ⟨-, he⟩ | ⟨-, d, q, -, he⟩
  · rw [he] at hrun; cases hrun
  · rw [he] at hrun
    obtain ⟨rfl, -⟩ := Prod.mk.inj (Option.some.inj hrun)
    exact bitLossKept_decodeStep (s := { s with pq := q }) hroom d

/-! ## One operation -/

theorem bitLossKept_of_next {o : Host.Outcome State Fault Refusal} (hs : o = .next u) (he : o = .next t)
    (hu : bitLossKept s u) : bitLossKept s t :=
  Host.Outcome.next.inj (hs.symm.trans he) ▸ hu

theorem bitLossKept_of_read
    (hi : (∃ n, i = .rdCsr n) ∨ (∃ n, i = .rdMsg n) ∨ (∃ k w, i = .rdSlot k w) ∨ (∃ c, i = .lookup c))
    (he : exec i s = .next t) : bitLossKept s t := by
  obtain ⟨st, w, hs⟩ := exec_read_respond hi s
  exact bitLossKept_of_next hs he ⟨rfl, rfl⟩

/-- An operation that neither decodes a pulse nor clears the counters keeps the record. -/
theorem exec_bitLossKept (hdec : i ≠ .decStep) (hclr : i ≠ .clrCnt) (he : exec i s = .next t) : bitLossKept s t := by
  cases i with
  | decStep => exact absurd rfl hdec
  | clrCnt => exact absurd rfl hclr
  | nop | loadIdLo h | loadIdHi h => exact bitLossKept_of_next rfl he ⟨rfl, rfl⟩
  | pushPulse d =>
    rcases execPushPulse_cases d s with ⟨-, hs⟩ | ⟨-, -, hs⟩ | ⟨-, q, -, hs⟩ <;>
      exact bitLossKept_of_next hs he ⟨rfl, rfl⟩
  | parseStep =>
    rcases execParseStep_cases s with ⟨-, hs⟩ | ⟨-, -, hs⟩ | ⟨-, -, u, w, hrun, hs⟩
    · exact bitLossKept_of_next hs he ⟨rfl, rfl⟩
    · exact bitLossKept_of_next hs he ⟨rfl, rfl⟩
    · have hkept : bitLossKept s u := bitLossKept_of_delivered (delivered_of_runParseStep hrun)
      exact bitLossKept_of_next hs he hkept
  | feedBit b =>
    rcases execFeedBit_cases b s with ⟨-, hs⟩ | ⟨-, hs⟩
    · exact bitLossKept_of_next hs he ⟨rfl, rfl⟩
    · exact bitLossKept_of_next hs he (bitLossKept_of_delivered ⟨symbolOfBit b, s.bq, s.turns, _, rfl⟩)
  | popSymbol =>
    rcases execPopSymbol_cases s with ⟨-, hs⟩ | ⟨-, -, hs⟩ | ⟨-, -, y, q, -, hs⟩ <;>
      exact bitLossKept_of_next hs he ⟨rfl, rfl⟩
  | reset m => exact bitLossKept_of_next (exec_reset m s) he ⟨rfl, rfl⟩
  | wrCtrl c =>
    by_cases hproto : protoOf c = s.proto
    · exact bitLossKept_of_next (exec_wrCtrl_of_sameProto hproto) he ⟨rfl, rfl⟩
    · exact bitLossKept_of_next (exec_wrCtrl_of_newProto hproto) he ⟨rfl, rfl⟩
  | setField k a e =>
    rcases execSetField_cases k a e s with ⟨-, hs⟩ | ⟨-, hs⟩ <;> exact bitLossKept_of_next hs he ⟨rfl, rfl⟩
  | regAdd f l c =>
    rcases execRegAdd_cases f l c s with ⟨-, hs⟩ | ⟨-, -, hs⟩ | ⟨-, -, -, hs⟩ | ⟨-, -, -, hs⟩ <;>
      exact bitLossKept_of_next hs he ⟨rfl, rfl⟩
  | rdCsr n => exact bitLossKept_of_read (.inl ⟨n, rfl⟩) he
  | rdMsg k => exact bitLossKept_of_read (.inr (.inl ⟨k, rfl⟩)) he
  | rdSlot k w => exact bitLossKept_of_read (.inr (.inr (.inl ⟨k, w, rfl⟩))) he
  | lookup c => exact bitLossKept_of_read (.inr (.inr (.inr ⟨c, rfl⟩))) he

/-- While ENGINE decodes, HOST's `DEC_STEP` is refused, so only `CLR_CNT` touches the record (R332, R342). -/
theorem exec_bitLoss_cases (hen : s.decEn = true) (he : exec i s = .next t) :
    bitLossKept s t ∨ t.bqOvf = false ∧ t.cnt.bqOvf = 0 := by
  by_cases hclr : i = .clrCnt
  · subst hclr
    obtain rfl := Host.Outcome.next.inj he
    exact .inr ⟨rfl, rfl⟩
  by_cases hdec : i = .decStep
  · subst hdec
    rcases execDecStep_cases s with ⟨-, hs⟩ | ⟨hoff, -⟩ | ⟨hoff, -⟩
    · exact .inl (bitLossKept_of_next hs he ⟨rfl, rfl⟩)
    · rw [hen] at hoff; cases hoff
    · rw [hen] at hoff; cases hoff
  · exact .inl (exec_bitLossKept hdec hclr he)

/-- While ENGINE parses, it decodes only into an empty `BQ` (R340). -/
theorem bitLossKept_engineStep (hvalid : s.cfg.valid) (hen : s.parEn = true) : bitLossKept s (engineStep s) := by
  rcases engineStep_cases s with ⟨-, -, w, hrun⟩ | ⟨-, -, hempty, w, hrun⟩ | ⟨-, -, he⟩
  · exact bitLossKept_of_delivered (delivered_of_runParseStep hrun)
  · obtain ⟨-, ⟨hcap, -⟩, -⟩ := hvalid
    have hroom : s.bq.cnt.toNat ≠ s.cfg.bqCap := by
      rw [hempty hen]
      exact (Nat.lt_of_succ_le hcap).ne
    exact bitLossKept_of_runDecStep hroom hrun
  · rw [he]; exact ⟨rfl, rfl⟩

end

/-- Settles O25: no agent's turn adds to the record, and `CLR_CNT` clears it. -/
theorem noBitLossUnderEngine : Obligations.NoBitLossUnderEngine := by
  intro s t hdec hpar hstep
  have hcases : bitLossKept s t ∨ t.bqOvf = false ∧ t.cnt.bqOvf = 0 := by
    obtain ⟨hvalid, ⟨d, rest, -, he⟩ | ⟨w, rest, e, -, -, rfl⟩ | ⟨w, rest, i, -, -, he⟩ | ⟨rest, -, rfl⟩⟩ :=
      step_cases hstep
    · exact exec_bitLoss_cases (s := { s with turns := rest }) hdec he
    · exact .inl ⟨rfl, rfl⟩
    · exact exec_bitLoss_cases (s := { s with turns := rest }) hdec he
    · exact .inl (bitLossKept_engineStep (s := { s with turns := rest }) hvalid hpar)
  rcases hcases with ⟨hflag, hcount⟩ | ⟨hflag, hcount⟩
  · exact ⟨fun hset => hflag ▸ hset, .inl hcount⟩
  · exact ⟨fun hset => absurd (hflag.symm.trans hset) Bool.noConfusion, .inr hcount⟩

end Sys2Proof.Machine
end

section
/-! SUPPORT. ENGINE empties the queues (44_control.md R340, R343): with both enables set each of its steps lowers what
the queues hold, a pulse weighing two because decoding it may put one symbol into `BQ`. -/

namespace Sys2Proof.Machine

/-- The ENGINE steps that the queued elements can still cost. -/
def queueLoad (s : State) : Nat := 2 * s.pq.cnt.toNat + s.bq.cnt.toNat

section
variable {s u : State} {w : Word}

/-! ## What one element costs -/

/-- A removal takes one element off the count (R153). -/
theorem Queue.remove_cnt {α : Type} {cap : Nat} {un : Nat → α} {q q' : Queue α} {v : α}
    (h : q.remove cap un = some (v, q')) : q'.cnt.toNat + 1 = q.cnt.toNat := by
  rcases Queue.remove_cases cap un q with ⟨-, hn⟩ | ⟨hne, hs⟩
  · rw [hn] at h; cases h
  · rw [hs] at h
    obtain ⟨-, rfl⟩ := Prod.mk.inj (Option.some.inj h)
    exact octet_pred_toNat hne

/-- An insertion adds at most one element to the count (R152). -/
theorem Queue.insert_cnt_le {α : Type} {cap : Nat} {q q' : Queue α} {v : α} (h : q.insert cap v = some q') :
    q'.cnt.toNat ≤ q.cnt.toNat + 1 := by
  rcases Queue.insert_cases cap q v with ⟨-, hn⟩ | ⟨-, hs⟩
  · rw [hn] at h; cases h
  · rw [hs] at h
    obtain rfl := Option.some.inj h
    exact (BitVec.toNat_add ..).trans_le (Nat.mod_le _ _)

theorem emit_bq_cnt_le (y : Symbol) (s : State) : (emit y s).1.bq.cnt.toNat ≤ s.bq.cnt.toNat + 1 := by
  rcases emit_cases y s with ⟨q, hq, he⟩ | ⟨-, he⟩ <;> rw [he]
  · exact Queue.insert_cnt_le hq
  · exact Nat.le_succ _

/-- A decoded pulse produces at most one symbol (R185). -/
theorem decodeStep_bq_cnt_le (d : Pulse) (s : State) : (decodeStep d s).1.bq.cnt.toNat ≤ s.bq.cnt.toNat + 1 := by
  rcases decodeStep_cases d s with ⟨-, he⟩ | ⟨-, dec, -, ⟨-, he⟩ | ⟨-, he⟩⟩ <;> rw [he]
  · exact emit_bq_cnt_le .resync s.decReset.countResync
  · exact emit_bq_cnt_le _ { s with dec := dec }
  · exact Nat.le_succ _

theorem queueLoad_lt_of_runParseStep (hrun : runParseStep s = some (u, w)) : queueLoad u < queueLoad s := by
  rcases runParseStep_cases s with ⟨-, he⟩ | ⟨-, y, q, hq, he⟩
  · rw [he] at hrun; cases hrun
  · rw [he] at hrun
    obtain ⟨rfl, -⟩ := Prod.mk.inj (Option.some.inj hrun)
    have hcnt := Queue.remove_cnt hq
    rw [deliver_frame]
    simp only [queueLoad]
    omega

theorem queueLoad_lt_of_runDecStep (hrun : runDecStep s = some (u, w)) : queueLoad u < queueLoad s := by
  rcases runDecStep_cases s with ⟨-, he⟩ | ⟨-, d, q, hq, he⟩
  · rw [he] at hrun; cases hrun
  · rw [he] at hrun
    obtain ⟨rfl, -⟩ := Prod.mk.inj (Option.some.inj hrun)
    have hpulses := Queue.remove_cnt hq
    have hsymbols : _ ≤ s.bq.cnt.toNat + 1 := decodeStep_bq_cnt_le d { s with pq := q }
    rw [decodeStep_frame]
    simp only [queueLoad]
    omega

/-! ## ENGINE's step -/

/-- With both enables set ENGINE is idle only when both queues are empty. -/
theorem engineStep_drains (hdec : s.decEn = true) (hpar : s.parEn = true) :
    s.pq.cnt = 0 ∧ s.bq.cnt = 0 ∨ queueLoad (engineStep s) < queueLoad s := by
  rcases engineStep_cases s with ⟨-, -, w, hrun⟩ | ⟨-, -, -, w, hrun⟩ | ⟨hbits, hpulses, -⟩
  · exact .inr (queueLoad_lt_of_runParseStep hrun)
  · exact .inr (queueLoad_lt_of_runDecStep hrun)
  · exact .inl ⟨hpulses hdec, hbits hpar⟩

/-- ENGINE writes neither `CTRL` nor the turns. -/
theorem engineStep_ctrl_turns (s : State) : (engineStep s).ctrl = s.ctrl ∧ (engineStep s).turns = s.turns := by
  rcases engineStep_cases s with ⟨-, -, w, hrun⟩ | ⟨-, -, -, w, hrun⟩ | ⟨-, -, he⟩
  · rcases runParseStep_cases s with ⟨-, he⟩ | ⟨-, y, q, -, he⟩ <;> rw [he] at hrun
    · cases hrun
    · obtain ⟨hu, -⟩ := Prod.mk.inj (Option.some.inj hrun)
      rw [← hu, deliver_frame]
      exact ⟨rfl, rfl⟩
  · rcases runDecStep_cases s with ⟨-, he⟩ | ⟨-, d, q, -, he⟩ <;> rw [he] at hrun
    · cases hrun
    · obtain ⟨hu, -⟩ := Prod.mk.inj (Option.some.inj hrun)
      rw [← hu, decodeStep_frame]
      exact ⟨rfl, rfl⟩
  · rw [he]; exact ⟨rfl, rfl⟩

end

/-- A run begins with its first step. -/
theorem run_succ_of_step {M : Host.Core} {s t : M.State} (h : M.step s = .next t) (n : Nat) :
    M.run (n + 1) s = M.run n t := by
  rw [Host.Core.run, h]

/-- Settles O60, by induction on the load of the queues: a step that finds one of them not empty lowers it. -/
theorem engineDrains : Obligations.EngineDrains := by
  intro s
  change Inv s → s.decEn = true → s.parEn = true → s.turns = [] →
    ∃ n t, n ≤ queueLoad s ∧ Sys2Proof.core.run n s = .next t ∧ t.pq.cnt = 0 ∧ t.bq.cnt = 0
  induction hload : queueLoad s using Nat.strong_induction_on generalizing s with
  | _ load ih =>
    intro hinv hdec hpar hturns
    rcases engineStep_drains hdec hpar with ⟨hpulses, hbits⟩ | hless
    · exact ⟨0, s, Nat.zero_le _, rfl, hpulses, hbits⟩
    · obtain ⟨hctrl, hrest⟩ := engineStep_ctrl_turns s
      have hdec' : (engineStep s).decEn = true := by rw [State.decEn, hctrl]; exact hdec
      have hpar' : (engineStep s).parEn = true := by rw [State.parEn, hctrl]; exact hpar
      obtain ⟨n, t, hn, hrun, hempty⟩ :=
        ih _ (hload ▸ hless) (engineStep s) rfl hinv.engineStep hdec' hpar' (hrest.trans hturns)
      have hstep := step_of_turns_nil hinv.instanceValid hturns
      exact ⟨n + 1, t, hload ▸ hn.trans_lt hless, (run_succ_of_step (M := Sys2Proof.core) hstep n).trans hrun, hempty⟩

end Sys2Proof.Machine
end

section
/-! SUPPORT. No turn of an agent stops the block (60_exceptions.md R380), and none writes the parameters (00_scope.md
R8), the power-on number (log 6) or the turns still to come (log 1). -/

namespace Sys2Proof.Machine

/-- The parameters, the power-on number and the turns to come as before. -/
abbrev instanceKept (s t : State) : Prop := t.cfg = s.cfg ∧ t.power = s.power ∧ t.turns = s.turns

/-- The outcome is a next state of the same instance: neither a fault nor a refusal. -/
def continues (s : State) (o : Host.Outcome State Fault Refusal) : Prop := ∃ t, o = .next t ∧ instanceKept s t

section
variable {s u : State} {i : Instr} {w : Word}

/-! ## One operation -/

theorem instanceKept_of_runDecStep (hrun : runDecStep s = some (u, w)) : instanceKept s u := by
  rcases runDecStep_cases s with ⟨-, he⟩ | ⟨-, d, q, -, he⟩
  · rw [he] at hrun; cases hrun
  · rw [he] at hrun
    obtain ⟨rfl, -⟩ := Prod.mk.inj (Option.some.inj hrun)
    rw [decodeStep_frame]
    exact ⟨rfl, rfl, rfl⟩

theorem instanceKept_deliver (y : Symbol) (s : State) : instanceKept s (deliver y s).1 := by
  rw [deliver_frame]
  exact ⟨rfl, rfl, rfl⟩

theorem instanceKept_of_runParseStep (hrun : runParseStep s = some (u, w)) : instanceKept s u := by
  rcases runParseStep_cases s with ⟨-, he⟩ | ⟨-, y, q, -, he⟩
  · rw [he] at hrun; cases hrun
  · rw [he] at hrun
    obtain ⟨rfl, -⟩ := Prod.mk.inj (Option.some.inj hrun)
    exact instanceKept_deliver y { s with bq := q }

theorem continues_of_read
    (hi : (∃ n, i = .rdCsr n) ∨ (∃ n, i = .rdMsg n) ∨ (∃ k v, i = .rdSlot k v) ∨ (∃ c, i = .lookup c)) :
    continues s (exec i s) := by
  obtain ⟨st, w, hs⟩ := exec_read_respond hi s
  exact ⟨_, hs, rfl, rfl, rfl⟩

/-- Every operation has a next state, whether it is performed or refused (R380). -/
theorem exec_continues (i : Instr) (s : State) : continues s (exec i s) := by
  cases i with
  | nop | loadIdLo h | loadIdHi h | clrCnt => exact ⟨_, rfl, rfl, rfl, rfl⟩
  | pushPulse d =>
    rcases execPushPulse_cases d s with ⟨-, hs⟩ | ⟨-, -, hs⟩ | ⟨-, q, -, hs⟩ <;> exact ⟨_, hs, rfl, rfl, rfl⟩
  | decStep =>
    rcases execDecStep_cases s with ⟨-, hs⟩ | ⟨-, -, hs⟩ | ⟨-, -, u, w, hrun, hs⟩
    · exact ⟨_, hs, rfl, rfl, rfl⟩
    · exact ⟨_, hs, rfl, rfl, rfl⟩
    · have hkept : instanceKept s u := instanceKept_of_runDecStep hrun
      exact ⟨_, hs, hkept⟩
  | parseStep =>
    rcases execParseStep_cases s with ⟨-, hs⟩ | ⟨-, -, hs⟩ | ⟨-, -, u, w, hrun, hs⟩
    · exact ⟨_, hs, rfl, rfl, rfl⟩
    · exact ⟨_, hs, rfl, rfl, rfl⟩
    · have hkept : instanceKept s u := instanceKept_of_runParseStep hrun
      exact ⟨_, hs, hkept⟩
  | popSymbol =>
    rcases execPopSymbol_cases s with ⟨-, hs⟩ | ⟨-, -, hs⟩ | ⟨-, -, y, q, -, hs⟩ <;> exact ⟨_, hs, rfl, rfl, rfl⟩
  | feedBit b =>
    rcases execFeedBit_cases b s with ⟨-, hs⟩ | ⟨-, hs⟩
    · exact ⟨_, hs, rfl, rfl, rfl⟩
    · exact ⟨_, hs, instanceKept_deliver (symbolOfBit b) s⟩
  | reset m => exact ⟨_, exec_reset m s, rfl, rfl, rfl⟩
  | wrCtrl c =>
    by_cases hproto : protoOf c = s.proto
    · exact ⟨_, exec_wrCtrl_of_sameProto hproto, rfl, rfl, rfl⟩
    · exact ⟨_, exec_wrCtrl_of_newProto hproto, rfl, rfl, rfl⟩
  | setField k a e =>
    rcases execSetField_cases k a e s with ⟨-, hs⟩ | ⟨-, hs⟩ <;> exact ⟨_, hs, rfl, rfl, rfl⟩
  | regAdd f l c =>
    rcases execRegAdd_cases f l c s with ⟨-, hs⟩ | ⟨-, -, hs⟩ | ⟨-, -, -, hs⟩ | ⟨-, -, -, hs⟩ <;>
      exact ⟨_, hs, rfl, rfl, rfl⟩
  | rdCsr n => exact continues_of_read (.inl ⟨n, rfl⟩)
  | rdMsg k => exact continues_of_read (.inr (.inl ⟨k, rfl⟩))
  | rdSlot k v => exact continues_of_read (.inr (.inr (.inl ⟨k, v, rfl⟩)))
  | lookup c => exact continues_of_read (.inr (.inr (.inr ⟨c, rfl⟩)))

/-! ## One turn -/

theorem instanceKept_engineStep (s : State) : instanceKept s (engineStep s) := by
  rcases engineStep_cases s with ⟨-, -, w, hrun⟩ | ⟨-, -, -, w, hrun⟩ | ⟨-, -, he⟩
  · exact instanceKept_of_runParseStep hrun
  · exact instanceKept_of_runDecStep hrun
  · rw [he]; exact ⟨rfl, rfl, rfl⟩

/-- No agent's turn stops the block; a command word that decodes to nothing is answered (R115, R116). -/
theorem runTurn_continues (a : Turn) (s : State) : continues s (runTurn a s) := by
  cases a with
  | edge d => exact exec_continues (.pushPulse d) s
  | engine => exact ⟨_, runTurn_engine s, instanceKept_engineStep s⟩
  | host w =>
    cases hw : decodeCommand w with
    | error e => exact ⟨_, runCommand_of_reject hw s, rfl, rfl, rfl⟩
    | ok i =>
      rw [runTurn_host_of_decode hw]
      exact exec_continues i s

end

/-- Settles O13: the step takes the first turn away and runs it, or runs ENGINE's with none to take away. -/
theorem stepNeverStops : Obligations.StepNeverStops := by
  intro s hvalid
  cases hturns : s.turns with
  | nil =>
    obtain ⟨hcfg, hpower, hrest⟩ := instanceKept_engineStep s
    exact ⟨engineStep s, step_of_turns_nil hvalid hturns, hcfg, hpower, hrest.trans hturns⟩
  | cons a rest =>
    rw [step_of_turns_cons hvalid hturns]
    exact runTurn_continues a { s with turns := rest }

end Sys2Proof.Machine
end
